-- ==== Sys2Proof/Word.lean ====
section
/-! DEFINITION. The word types of the spec (00_scope.md R10, 10_state.md R21, R30, R40). A byte string of varying length is a list of bytes, offset 0 first. -/

namespace Sys2Proof

/-- A byte: 8 bits, bit 7 the most significant (R10). -/
abbrev Byte := BitVec 8

/-- An operand register or an address: `AW` = 32 bits, unsigned (R7, R21). -/
abbrev Word := BitVec 32

/-- The cipher state `v[0..16)`, a round key, a taps vector: 16 bytes (R104, R150). -/
abbrev Vec16 := Vector Byte 16

/-- A matrix `M[i][j]`, row `i`, column `j`, over bytes (R104). -/
abbrev Matrix16 := Vector Vec16 16

/-- A table of 256 bytes, `S[x]` at index `x` (R104). -/
abbrev ByteTable := Vector Byte 256

/-- One direction of the round tables: `T[j][x]` is a 16-byte vector (R40, R116). -/
abbrev RoundTable := Vector (Vector Vec16 256) 16

/-- The place of the round keys: `rk[0] .. rk[14]`, 16 bytes each (R30). -/
abbrev RoundKeys := Vector Vec16 15

/-- A key-object slot number, bits 11:8 of the command word (R7, R81). -/
abbrev SlotId := Fin 16

end Sys2Proof
end

