-- ==== Sys2Proof/Syntax.lean ====
section
/-! DEFINITION. The instructions: one constructor per row of spec/opcode_table.json (30_encoding.md R85, R86),
and the three forms of code they are written in. -/

namespace Sys2Proof

/-- The table variant that `INIT_DEFAULT` installs, field `sel` (R85, R118). -/
inductive Variant where
  | standard
  | compat
  deriving DecidableEq, Repr

/-- The algorithm that `BIND` installs, field `sel` (R85, R132). -/
inductive BindKind where
  | b8
  | b16t
  | b16p
  deriving DecidableEq, Repr

/-- One constructor per row of the opcode table. A command's immediate is an unsigned number (R83); the operands
of an internal operation stand in the sequencer's latches, not in its code (R86). -/
inductive Instr where
  -- format T, Z: the table builder
  | genMatrix
  | invMatrix
  | invPerm
  | initTables
  | initDefault (variant : Variant)
  -- format S, SK: the key object
  | create (slot : SlotId) (blockSize : Nat)
  | bind (slot : SlotId) (kind : BindKind)
  | setKey (slot : SlotId)
  | setKeyRandom (slot : SlotId) (keyLen : Nat)
  | deriveNext (slot : SlotId)
  | destroy (slot : SlotId)
  -- format M: the modes
  | ecbEnc (slot : SlotId)
  | ecbDec (slot : SlotId)
  | cbcEnc (slot : SlotId)
  | cbcDec (slot : SlotId)
  | ctr (slot : SlotId)
  | ctrAcpkm (slot : SlotId)
  | cmac (slot : SlotId)
  -- format O: the entries of a slot's operation table
  | encryptBlock
  | decryptBlock
  | scheduleKeys
  | eraseKeys
  -- format U: the micro-operations
  | addRoundKey
  | subBytes
  | linear
  | linearLast
  | invSubBytes
  | invLinear
  | invLinearLast
  | roundT
  | invRoundT
  | shiftRows
  | mixColumns
  | invShiftRows
  | invMixColumns
  | lfsrStep
  deriving DecidableEq, Repr

/-- The three forms of code of 30_encoding.md: the 32-bit command word the host writes to `CMD` (R80), the 2-bit
code of an operation-table entry and the 4-bit code of a micro-operation (R82, R86). -/
inductive Code where
  | command (w : BitVec 32)
  | entry (c : BitVec 2)
  | micro (c : BitVec 4)
  deriving DecidableEq, Repr

/-- The host can issue the 18 commands and none of the internal operations (R85, R86). -/
def Instr.hostIssuable : Instr → Bool
  | .genMatrix | .invMatrix | .invPerm | .initTables | .initDefault _ => true
  | .create _ _ | .bind _ _ | .setKey _ | .setKeyRandom _ _ | .deriveNext _ | .destroy _ => true
  | .ecbEnc _ | .ecbDec _ | .cbcEnc _ | .cbcDec _ | .ctr _ | .ctrAcpkm _ | .cmac _ => true
  | .encryptBlock | .decryptBlock | .scheduleKeys | .eraseKeys => false
  | .addRoundKey | .subBytes | .linear | .linearLast | .invSubBytes | .invLinear | .invLinearLast => false
  | .roundT | .invRoundT | .shiftRows | .mixColumns | .invShiftRows | .invMixColumns | .lfsrStep => false

end Sys2Proof
end

