-- ==== Sys2Proof/WellFormed.lean ====
section
/-! DEFINITION. Which instructions have an encoding: an immediate fits the 16 bits of `imm` (30_encoding.md R81,
R83). Slot numbers and selectors are in range by their types. -/

namespace Sys2Proof

/-- The immediate of `CREATE` and of `SET_KEY_RANDOM` is an unsigned 16-bit number (R83). A value that fits and is
no good argument is an error of the command, not an ill-formed instruction (R91). -/
def Instr.wellFormed : Instr → Bool
  | .create _ blockSize => decide (blockSize < 2 ^ 16)
  | .setKeyRandom _ keyLen => decide (keyLen < 2 ^ 16)
  | .genMatrix | .invMatrix | .invPerm | .initTables | .initDefault _ => true
  | .bind _ _ | .setKey _ | .deriveNext _ | .destroy _ => true
  | .ecbEnc _ | .ecbDec _ | .cbcEnc _ | .cbcDec _ | .ctr _ | .ctrAcpkm _ | .cmac _ => true
  | .encryptBlock | .decryptBlock | .scheduleKeys | .eraseKeys => true
  | .addRoundKey | .subBytes | .linear | .linearLast | .invSubBytes | .invLinear | .invLinearLast => true
  | .roundT | .invRoundT | .shiftRows | .mixColumns | .invShiftRows | .invMixColumns | .lfsrStep => true

end Sys2Proof
end

