-- ==== Sys2Proof/Decode.lean ====
section
/-! DEFINITION. The decoder and the encoder of 30_encoding.md: command words (R80 to R85), internal codes (R86),
and what is illegal (R90). -/

namespace Sys2Proof

/-- Why a code is no instruction. A command word that is rejected ends with `InvalidCommand` (R90). -/
inductive DecodeError where
  /-- `op` is not one of the 18 values of R85. -/
  | illegalOp
  /-- A must-be-zero field is set (R90). -/
  | reservedFieldSet
  /-- `sel` names no variant of `INIT_DEFAULT` or no kind of `BIND` (R90). -/
  | badSelector
  /-- A 4-bit code that names no micro-operation: 0xE, 0xF (R86). -/
  | unassignedMicro
  deriving DecidableEq, Repr

/-! ### Fields of the command word (R81) -/

/-- Bits 7:0. -/
def fieldOp (w : BitVec 32) : BitVec 8 := w.extractLsb' 0 8
/-- Bits 11:8. -/
def fieldSlot (w : BitVec 32) : BitVec 4 := w.extractLsb' 8 4
/-- Bits 15:12. -/
def fieldSel (w : BitVec 32) : BitVec 4 := w.extractLsb' 12 4
/-- Bits 31:16. -/
def fieldImm (w : BitVec 32) : BitVec 16 := w.extractLsb' 16 16

/-- A command word from its four fields. -/
def packWord (op : BitVec 8) (slot sel : BitVec 4) (imm : BitVec 16) : BitVec 32 := imm ++ sel ++ slot ++ op

/-- The slot number that a 4-bit field holds. -/
def slotOf (f : BitVec 4) : SlotId := f.toFin

/-! ### The decoder -/

/-- `ok i` where the must-be-zero fields of the row are zero. -/
def whenZero (zero : Bool) (i : Instr) : Except DecodeError Instr :=
  if zero then .ok i else .error .reservedFieldSet

/-- Which variant `sel` names (R85). -/
def variantOf (sel : BitVec 4) : Option Variant :=
  if sel = 0 then some .standard else if sel = 1 then some .compat else none

/-- Which kind `sel` names (R85). -/
def bindKindOf (sel : BitVec 4) : Option BindKind :=
  if sel = 1 then some .b8 else if sel = 2 then some .b16t else if sel = 3 then some .b16p else none

/-- The decoder of command words: total, every word gives an instruction or the reason it is illegal (R81, R85, R90). -/
def decodeCommand (w : BitVec 32) : Except DecodeError Instr :=
  let slot := slotOf (fieldSlot w)
  let sel := fieldSel w
  let imm := fieldImm w
  let noSlot := decide (fieldSlot w = 0)
  let noSel := decide (sel = 0)
  let noImm := decide (imm = 0)
  match fieldOp w with
  | 0x01#8 => whenZero (noSlot && noSel && noImm) .genMatrix
  | 0x02#8 => whenZero (noSlot && noSel && noImm) .invMatrix
  | 0x03#8 => whenZero (noSlot && noSel && noImm) .invPerm
  | 0x04#8 => whenZero (noSlot && noSel && noImm) .initTables
  | 0x05#8 =>
    match variantOf sel with
    | some v => whenZero (noSlot && noImm) (.initDefault v)
    | none => .error .badSelector
  | 0x10#8 => whenZero noSel (.create slot imm.toNat)
  | 0x11#8 =>
    match bindKindOf sel with
    | some k => whenZero noImm (.bind slot k)
    | none => .error .badSelector
  | 0x12#8 => whenZero (noSel && noImm) (.setKey slot)
  | 0x13#8 => whenZero noSel (.setKeyRandom slot imm.toNat)
  | 0x14#8 => whenZero (noSel && noImm) (.deriveNext slot)
  | 0x15#8 => whenZero (noSel && noImm) (.destroy slot)
  | 0x20#8 => whenZero (noSel && noImm) (.ecbEnc slot)
  | 0x21#8 => whenZero (noSel && noImm) (.ecbDec slot)
  | 0x22#8 => whenZero (noSel && noImm) (.cbcEnc slot)
  | 0x23#8 => whenZero (noSel && noImm) (.cbcDec slot)
  | 0x24#8 => whenZero (noSel && noImm) (.ctr slot)
  | 0x25#8 => whenZero (noSel && noImm) (.ctrAcpkm slot)
  | 0x26#8 => whenZero (noSel && noImm) (.cmac slot)
  | _ => .error .illegalOp

/-- The decoder of operation-table codes (R86): all four are assigned. -/
def decodeEntry (c : BitVec 2) : Instr :=
  match c with
  | 0#2 => .encryptBlock
  | 1#2 => .decryptBlock
  | 2#2 => .scheduleKeys
  | _ => .eraseKeys

/-- The decoder of micro-operation codes (R86). -/
def decodeMicro (c : BitVec 4) : Except DecodeError Instr :=
  match c with
  | 0x0#4 => .ok .addRoundKey
  | 0x1#4 => .ok .subBytes
  | 0x2#4 => .ok .linear
  | 0x3#4 => .ok .linearLast
  | 0x4#4 => .ok .invSubBytes
  | 0x5#4 => .ok .invLinear
  | 0x6#4 => .ok .invLinearLast
  | 0x7#4 => .ok .roundT
  | 0x8#4 => .ok .invRoundT
  | 0x9#4 => .ok .shiftRows
  | 0xA#4 => .ok .mixColumns
  | 0xB#4 => .ok .invShiftRows
  | 0xC#4 => .ok .invMixColumns
  | 0xD#4 => .ok .lfsrStep
  | _ => .error .unassignedMicro

/-- The decoder, total on every code. -/
def decode : Code → Except DecodeError Instr
  | .command w => decodeCommand w
  | .entry c => .ok (decodeEntry c)
  | .micro c => decodeMicro c

/-- The code an instruction of the opcode table's numbering stands for. A row of 2 bits is format O, a row of 4 bits
format U (R82). Given as a whole byte the two cannot be told apart: it is read as format U (log entry 10). -/
def tableCode (nbits w : Nat) : Code :=
  if nbits = 32 then .command (BitVec.ofNat 32 w)
  else if nbits = 2 then .entry (BitVec.ofNat 2 w)
  else .micro (BitVec.ofNat 4 w)

/-- The instruction the decoder reads from the bits `w` as the opcode table numbers them. -/
def decodeTableWord (nbits w : Nat) : Option Instr := (decode (tableCode nbits w)).toOption

/-! ### The encoder -/

/-- A command that names a slot and whose other fields are zero. -/
def slotWord (op : BitVec 8) (slot : SlotId) : Code := .command (packWord op (BitVec.ofFin slot) 0 0)

/-- The code of an instruction, written from the opcode map (R85, R86). -/
def encode : Instr → Code
  | .genMatrix => .command (packWord 0x01 0 0 0)
  | .invMatrix => .command (packWord 0x02 0 0 0)
  | .invPerm => .command (packWord 0x03 0 0 0)
  | .initTables => .command (packWord 0x04 0 0 0)
  | .initDefault .standard => .command (packWord 0x05 0 0 0)
  | .initDefault .compat => .command (packWord 0x05 0 1 0)
  | .create slot blockSize => .command (packWord 0x10 (BitVec.ofFin slot) 0 (BitVec.ofNat 16 blockSize))
  | .bind slot .b8 => .command (packWord 0x11 (BitVec.ofFin slot) 1 0)
  | .bind slot .b16t => .command (packWord 0x11 (BitVec.ofFin slot) 2 0)
  | .bind slot .b16p => .command (packWord 0x11 (BitVec.ofFin slot) 3 0)
  | .setKey slot => slotWord 0x12 slot
  | .setKeyRandom slot keyLen => .command (packWord 0x13 (BitVec.ofFin slot) 0 (BitVec.ofNat 16 keyLen))
  | .deriveNext slot => slotWord 0x14 slot
  | .destroy slot => slotWord 0x15 slot
  | .ecbEnc slot => slotWord 0x20 slot
  | .ecbDec slot => slotWord 0x21 slot
  | .cbcEnc slot => slotWord 0x22 slot
  | .cbcDec slot => slotWord 0x23 slot
  | .ctr slot => slotWord 0x24 slot
  | .ctrAcpkm slot => slotWord 0x25 slot
  | .cmac slot => slotWord 0x26 slot
  | .encryptBlock => .entry 0
  | .decryptBlock => .entry 1
  | .scheduleKeys => .entry 2
  | .eraseKeys => .entry 3
  | .addRoundKey => .micro 0x0
  | .subBytes => .micro 0x1
  | .linear => .micro 0x2
  | .linearLast => .micro 0x3
  | .invSubBytes => .micro 0x4
  | .invLinear => .micro 0x5
  | .invLinearLast => .micro 0x6
  | .roundT => .micro 0x7
  | .invRoundT => .micro 0x8
  | .shiftRows => .micro 0x9
  | .mixColumns => .micro 0xA
  | .invShiftRows => .micro 0xB
  | .invMixColumns => .micro 0xC
  | .lfsrStep => .micro 0xD

/-! ### The opcode map as the spec prints it -/

/-- One row of the opcode map of R85: the word's `match` and `mask`, and the legal values of `sel` where the row
leaves it free. -/
structure HostRow where
  pattern : BitVec 32
  mask : BitVec 32
  sels : List (BitVec 4)
  deriving DecidableEq, Repr

/-- The 18 rows of R85, in its order. The statement that the decoder accepts exactly what they select is an
obligation. -/
def hostRows : List HostRow :=
  [ ⟨0x00000001, 0xFFFFFFFF, [0]⟩, ⟨0x00000002, 0xFFFFFFFF, [0]⟩, ⟨0x00000003, 0xFFFFFFFF, [0]⟩,
    ⟨0x00000004, 0xFFFFFFFF, [0]⟩, ⟨0x00000005, 0xFFFF0FFF, [0, 1]⟩ ] ++
  [ ⟨0x00000010, 0x0000F0FF, [0]⟩, ⟨0x00000011, 0xFFFF00FF, [1, 2, 3]⟩, ⟨0x00000012, 0xFFFFF0FF, [0]⟩,
    ⟨0x00000013, 0x0000F0FF, [0]⟩, ⟨0x00000014, 0xFFFFF0FF, [0]⟩, ⟨0x00000015, 0xFFFFF0FF, [0]⟩ ] ++
  [ ⟨0x00000020, 0xFFFFF0FF, [0]⟩, ⟨0x00000021, 0xFFFFF0FF, [0]⟩, ⟨0x00000022, 0xFFFFF0FF, [0]⟩,
    ⟨0x00000023, 0xFFFFF0FF, [0]⟩, ⟨0x00000024, 0xFFFFF0FF, [0]⟩, ⟨0x00000025, 0xFFFFF0FF, [0]⟩,
    ⟨0x00000026, 0xFFFFF0FF, [0]⟩ ]

/-- A word is legal when a row's `(CMD & mask) = match` holds and its `sel` is legal (R81). -/
def legalWord (w : BitVec 32) : Bool :=
  hostRows.any fun r => decide (w &&& r.mask = r.pattern) && r.sels.contains (fieldSel w)

end Sys2Proof
end

