-- ==== Sys2Proof/Machine/Bytes.lean ====
section
/-! DEFINITION. Byte strings, vectors, tables and matrices: the conversions between them and the byte order in
which memory holds each (20_memory.md R65, 40_table_builder.md R104). -/

namespace Sys2Proof

/-- The vector of 16 zero bytes. -/
def Vec16.zero : Vec16 := Vector.replicate 16 0

/-- The first 16 bytes of a byte string, zero where the string has ended. -/
def Vec16.ofList (b : List Byte) : Vec16 := Vector.ofFn fun i => b.getD i.val 0

/-- The first 8 bytes of a byte string, zero where the string has ended. -/
def vec8OfList (b : List Byte) : Vector Byte 8 := Vector.ofFn fun i => b.getD i.val 0

/-- The first 256 bytes of a byte string, zero where the string has ended. -/
def ByteTable.ofList (b : List Byte) : ByteTable := Vector.ofFn fun i => b.getD i.val 0

/-- 256 bytes as a matrix, row-major: `M[i][j]` at offset `16*i + j` (R65, R104). -/
def Matrix16.ofList (b : List Byte) : Matrix16 :=
  Vector.ofFn fun i => Vector.ofFn fun j => b.getD (16 * i.val + j.val) 0

/-- A matrix as 256 bytes, row-major (R65, R104). -/
def Matrix16.toBytes (m : Matrix16) : List Byte :=
  (List.finRange 256).map fun k => (m[k.val / 16])[k.val % 16]

/-- The entry of a 256-entry table that a byte selects. -/
def lookup {α : Type} (t : Vector α 256) (x : Byte) : α := t[x.toNat]'x.isLt

/-- Two byte strings are equal, compared row by row: `n` rows of 16 bytes and the rest. -/
def sameBytes : Nat → List Byte → List Byte → Bool
  | 0, a, b => a == b
  | n + 1, a, b => a.take 16 == b.take 16 && sameBytes n (a.drop 16) (b.drop 16)

/-- `ceil(n / d)` on natural numbers, 0 for `d = 0`. -/
def ceilDiv (n d : Nat) : Nat := (n + d - 1) / d

/-- Bytewise XOR of two byte strings, as long as the shorter (R10). -/
def xorBytes (a b : List Byte) : List Byte := List.zipWith (· ^^^ ·) a b

end Sys2Proof
end

