-- ==== Sys2Proof/Config.lean ====
section
/-! DEFINITION. What an implementation fixes: the open parameters of 00_scope.md R7 and R8 as plain data, and the
free values, which are opaque constants with no body. -/

namespace Sys2Proof

/-- The linear source of a profile (R8): the taps of the feedback register, or the matrix itself. -/
inductive LinSource where
  | taps (t : Vec16)
  | matrix (m : Matrix16)
  deriving DecidableEq, Repr

/-- The linear map of the final round (R8, 42_cipher_core.md R154). -/
inductive LastLin where
  | same
  | bytePerm (pi : Vector (Fin 16) 16)
  deriving DecidableEq, Repr

/-- The key-expansion algorithm a profile names (R8, 42_cipher_core.md R160). -/
inductive Expand where
  | aes
  | gost
  deriving DecidableEq, Repr

/-- One accepted key length, in bytes, with its number of rounds `Nr(key_len)` (R8). -/
structure KeySize where
  len : Nat
  rounds : Nat
  deriving DecidableEq, Repr

/-- The cipher constants (R8). -/
structure Profile where
  /-- `poly`: the field polynomial, a 9-bit number with bit 8 set -/
  poly : BitVec 9
  /-- `lin_std` -/
  linStd : LinSource
  /-- `perm_std` -/
  permStd : ByteTable
  /-- `lin_compat`, absent in both tabulated profiles -/
  linCompat : Option LinSource
  /-- `perm_compat`, absent in both tabulated profiles -/
  permCompat : Option ByteTable
  /-- `last_lin` -/
  lastLin : LastLin
  /-- `key_lengths` and `Nr` -/
  keySizes : List KeySize
  /-- `key_len_default` -/
  keyLenDefault : Nat
  /-- `expand` -/
  expand : Expand
  /-- `acpkm_D`: the constant blocks that a derivation encrypts -/
  acpkmD : Vector Byte 32
  deriving DecidableEq, Repr

/-- The plain-data part of the optional 8-byte-block algorithm `alg8` (R7, R9, 41_key_object.md R139). Its functions
are the free values below. -/
structure Alg8 where
  keyLengths : List Nat
  /-- The length `SET_KEY_RANDOM` draws for kind `B8` when its immediate is 0. DESIGN CHOICE (log entry 31): the spec names a
  default for the 16-byte kinds alone (41_key_object.md R134), so the model makes it an open parameter of its own. -/
  keyLenDefault : Nat
  deriving DecidableEq, Repr

/-- `resource_max(kind)`, a number below 2^64 per kind (R7). -/
structure ResourceMax where
  b8 : BitVec 64
  b16t : BitVec 64
  b16p : BitVec 64
  deriving DecidableEq, Repr

/-- The open parameters of the machine (R7) that are plain data. -/
structure Params where
  profile : Profile
  /-- the highest address of data memory, an `AW`-bit number, so that `1 <= MEM_SIZE <= 2^AW` (92_eei_decisions.md D5) -/
  lastAddress : Word
  resourceMax : ResourceMax
  alg8 : Option Alg8
  deriving DecidableEq, Repr

/-- `MEM_SIZE`: data memory has the addresses `0 .. MEM_SIZE-1` (R7). -/
def Params.memSize (par : Params) : Nat := par.lastAddress.toNat + 1

/-- FREE VALUE. The random source (41_key_object.md R135): the answer to draw number `call` for `n` bytes, `none` for
`Exhausted`. The bytes are under no law. -/
opaque Config.rngFill (call n : Nat) : Option (Vector Byte n)

/-- FREE VALUE. The integrity tag of key bytes, `icode` (R7, 10_state.md R32), as a number. -/
opaque Config.icode (key : List Byte) : Nat

/-- FREE VALUE. `alg8.schedule8`: the opaque schedule that the place of the round keys holds for kind `B8` (R7,
10_state.md R30, 42_cipher_core.md R160). -/
opaque Config.alg8Schedule (key : List Byte) : RoundKeys

/-- FREE VALUE. What `nrk` holds after `SCHEDULE_KEYS` for kind `B8`: 42_cipher_core.md R160 states none
(log entry 16). -/
opaque Config.alg8Nrk (key : List Byte) : BitVec 4

/-- FREE VALUE. `alg8.E8` under a schedule; `alg8.D8` is its inverse, so that `D8(rk, E8(rk, b)) = b` (R7; log
entry 17). -/
opaque Config.alg8Block (rk : RoundKeys) : Equiv.Perm (Vector Byte 8)

/-- FREE VALUE. The vector an operation yields that would read a table array while `TBL.valid = 0`: the arrays are
unspecified then and a model must not read them (10_state.md R45). `draw` numbers the occasion. -/
opaque Config.unspecifiedVec (draw : Nat) : Vec16

/-- FREE VALUE. The round keys that `SCHEDULE_KEYS` of a 16-byte kind yields while `TBL.valid = 0` (10_state.md R45). -/
opaque Config.unspecifiedKeys (draw : Nat) : RoundKeys

end Sys2Proof
end

