-- ==== Sys2Proof/Machine/State.lean ====
section
/-! DEFINITION. The state of the machine (10_state.md R20), as plain data, its value after reset (R45,
70_reset_and_hazards.md R280), and the reasons a step can stop. -/

namespace Sys2Proof.Machine

/-- Which operation table a slot has (R30, R36): `unbound` is all four operations null. -/
inductive Kind where
  | unbound
  | b8
  | b16t
  | b16p
  deriving DecidableEq, Repr

/-- One key object (R30). -/
structure Slot where
  /-- `present` -/
  present : Bool
  /-- `block_size`: 0, 8 or 16 -/
  blockSize : BitVec 8
  /-- `kind` -/
  kind : Kind
  /-- `key_set` -/
  keySet : Bool
  /-- `key_len`: 0..32 -/
  keyLen : BitVec 8
  /-- `key`: bytes beyond `key_len` are zero -/
  key : Vector Byte 32
  /-- `key_tag`: the tag's bits read as a number, 0 when zeroed; its width is open (R32; log entry 6) -/
  keyTag : Nat
  /-- `nrk` -/
  nrk : BitVec 4
  /-- `rk` -/
  rk : RoundKeys
  /-- `resource_counter` -/
  resourceCounter : BitVec 64
  /-- `iv_buffer` -/
  ivBuffer : Vector Byte 64
  /-- `iv_length`: 0..64 -/
  ivLength : BitVec 8
  deriving DecidableEq, Repr

/-- The round-key place with every byte zero. -/
def RoundKeys.zero : RoundKeys := Vector.replicate 15 Vec16.zero

/-- The slot with every field zero (R31, R45). -/
def Slot.zero : Slot where
  present := false
  blockSize := 0
  kind := .unbound
  keySet := false
  keyLen := 0
  key := Vector.replicate 32 0
  keyTag := 0
  nrk := 0
  rk := RoundKeys.zero
  resourceCounter := 0
  ivBuffer := Vector.replicate 64 0
  ivLength := 0

/-- The shared table set `TBL` (R40). -/
structure TableSet where
  /-- `valid` -/
  valid : Bool
  /-- `MAT` -/
  mat : Matrix16
  /-- `MATINV` -/
  matInv : Matrix16
  /-- `PERM` -/
  perm : ByteTable
  /-- `PERMINV` -/
  permInv : ByteTable
  /-- `T`, the forward round tables -/
  fwd : RoundTable
  /-- `IT`, the inverse round tables -/
  bwd : RoundTable
  deriving DecidableEq, Repr

/-- The table set with every bit zero. DESIGN CHOICE for the contents after reset, unsafe (log entry 2). -/
def TableSet.zero : TableSet where
  valid := false
  mat := Vector.replicate 16 Vec16.zero
  matInv := Vector.replicate 16 Vec16.zero
  perm := Vector.replicate 256 0
  permInv := Vector.replicate 256 0
  fwd := Vector.replicate 16 (Vector.replicate 256 Vec16.zero)
  bwd := Vector.replicate 16 (Vector.replicate 256 Vec16.zero)

/-- The operand latches of the internal operations, the model's own (log entry 5): the slot an operation-table entry
acts on, the cipher state `v` (42_cipher_core.md R150) and the second operand `k` (a round key, or the taps of
`LFSR_STEP`). They hold transients of a command and are zero when a command has ended (R44). -/
structure Sequencer where
  slot : SlotId
  v : Vec16
  k : Vec16
  deriving DecidableEq, Repr

/-- The latches with every bit zero (R44). -/
def Sequencer.zero : Sequencer := ⟨0, Vec16.zero, Vec16.zero⟩

/-- What can happen next to the machine, the model's own list of inputs (log entry 7). -/
inductive Event where
  /-- The host writes operand register `i` (R21). -/
  | writeP (i : Fin 8) (v : Word)
  /-- The host writes bytes of its data memory (60_exceptions.md R276). -/
  | writeMem (addr : Word) (bytes : List Byte)
  /-- A code is issued: a command word by the host's write of `CMD` (R22), or an internal code by the sequencer (R86). -/
  | issue (c : Code)
  /-- The sequencer loads the operands of the internal operation it invokes next (R86). -/
  | latch (q : Sequencer)
  /-- Reset (70_reset_and_hazards.md R280). What memory and the table arrays hold afterwards is unspecified (R282): the
  event brings it, so that nothing is chosen. -/
  | reset (cells : List Host.Cell) (tables : TableSet)
  deriving DecidableEq, Repr

/-- The whole state. -/
structure State where
  /-- `P0 .. P7` (R21) -/
  p : Vector Word 8
  /-- `CMD` (R22) -/
  cmd : BitVec 32
  /-- `RES` (R23) -/
  res : BitVec 32
  /-- `R_DONE` (R23) -/
  rDone : BitVec 32
  /-- `R_REQ` (R23) -/
  rReq : BitVec 32
  /-- `R_LEFT` (R23) -/
  rLeft : BitVec 64
  /-- `FAULT` (R25) -/
  fault : Bool
  /-- `FAULT_CAUSE` (R25) -/
  faultCause : BitVec 8
  /-- `slot[0..NSLOTS)` (R30) -/
  slots : Vector Slot 16
  /-- `TBL` (R40) -/
  tbl : TableSet
  /-- `Mem` (R43): the listed bytes; see Machine/Ops.lean -/
  mem : List Host.Cell
  /-- the open parameters (00_scope.md R7), written by no step; the model's own place for them (log entry 3) -/
  par : Params
  /-- the number of draws made so far, of `rng_fill` answers and of unspecified values; the model's own (log entry 4) -/
  draws : Nat
  /-- the operand latches of the internal operations; the model's own (log entry 5) -/
  seq : Sequencer
  /-- what happens next, first first; the model's own (log entry 7) -/
  agenda : List Event
  deriving DecidableEq, Repr

/-- The parameters of `State.reset`. DESIGN CHOICE, unsafe where a statement rests on it (log entry 3): `PROFILE_AES`, and
the other values 95_test_vectors.md uses. -/
def Params.atReset : Params where
  profile := profileAes
  lastAddress := 0xFFFF
  resourceMax := ⟨2 ^ 40, 2 ^ 40, 2 ^ 40⟩
  alg8 := none

/-- The machine right after reset (R45, R280). -/
def State.reset : State where
  p := Vector.replicate 8 0
  cmd := 0
  res := 0
  rDone := 0
  rReq := 0
  rLeft := 0
  fault := false
  faultCause := 0
  slots := Vector.replicate 16 Slot.zero
  tbl := TableSet.zero
  mem := []
  par := Params.atReset
  draws := 0
  seq := Sequencer.zero
  agenda := []

/-- Reasons the model stops a step although no refusal applies. A hardware fault of 60_exceptions.md R262 is not one of
them: it is a next state with `FAULT = 1`. -/
inductive Fault where
  /-- Raised by ENCRYPT_BLOCK, DECRYPT_BLOCK, SCHEDULE_KEYS issued for a slot whose kind is UNBOUND: all four operations
  are null (10_state.md R36, 42_cipher_core.md R169). Safe. -/
  | noOperationBound
  /-- Raised by ENCRYPT_BLOCK and DECRYPT_BLOCK issued for a slot with `key_set = 0`, where they are not defined
  (42_cipher_core.md R155). Safe. -/
  | noKeyInstalled
  /-- Raised by SCHEDULE_KEYS issued for a slot whose `key_len` its kind does not accept: the caller owes a validated
  length (42_cipher_core.md R160). Safe. -/
  | keyLengthNotValidated
  /-- Raised by a host write of memory at an address that does not exist (20_memory.md R60). Safe. -/
  | noSuchAddress
  deriving DecidableEq, Repr

/-- Reasons the model gives an input no meaning. -/
inductive Refusal where
  /-- An arm of exec without a meaning; no arm is left so. Safe. -/
  | notModelled (mnemonic : String)
  /-- Raised by BIND with kind B8 while `alg8` is absent (00_scope.md R9, 41_key_object.md R132). Safe. -/
  | alg8Absent
  /-- Raised by SHIFT_ROWS, MIX_COLUMNS, INV_SHIFT_ROWS, INV_MIX_COLUMNS on a machine whose profile is not `PROFILE_AES`, which
  alone has them (30_encoding.md R86). Safe. -/
  | aesProfileOnly
  /-- Raised by the issue of a 4-bit code that names no micro-operation (30_encoding.md R86). Safe. -/
  | unassignedMicro
  deriving DecidableEq, Repr

end Sys2Proof.Machine
end

