-- ==== Sys2Proof/Machine/Flags.lean ====
section
/-! DEFINITION. The error kinds and the fault causes with their codes (60_exceptions.md R251, R263). The hardware has no
arithmetic flags: `RES.err`, `FAULT` and `FAULT_CAUSE` are its only ones (10_state.md R25). -/

namespace Sys2Proof.Machine

/-- The recoverable error kinds (R251). -/
inductive ErrorKind where
  | nullOrMissingArgument
  | zeroLength
  | wrongKeyLength
  | wrongBlockCipherLength
  | wrongIvLength
  | wrongBlockCipher
  | wrongBlockCipherFunction
  | lowKeyResource
  | keyValueUndefined
  | notInvertible
  | notAPermutation
  | invalidParameter
  deriving DecidableEq, Repr

/-- The code of an error kind in `RES.err` (R251). -/
def errorCode : ErrorKind → Byte
  | .nullOrMissingArgument => 1
  | .zeroLength => 2
  | .wrongKeyLength => 3
  | .wrongBlockCipherLength => 4
  | .wrongIvLength => 5
  | .wrongBlockCipher => 6
  | .wrongBlockCipherFunction => 7
  | .lowKeyResource => 8
  | .keyValueUndefined => 9
  | .notInvertible => 10
  | .notAPermutation => 11
  | .invalidParameter => 12

/-- `RES.err` of a success (R251). -/
def codeSuccess : Byte := 0

/-- `RES.err` of a command that meets or sets `FAULT = 1` (R251, R262). -/
def codeFaulted : Byte := 0xFE

/-- `RES.err` of an illegal command word (R251, 30_encoding.md R90). -/
def codeInvalidCommand : Byte := 0xFF

/-- The causes of a contract fault (R263). -/
inductive FaultCause where
  | bufferOutOfRange
  | outputTooShort
  | partialOverlap
  deriving DecidableEq, Repr

/-- The code of a cause in `FAULT_CAUSE` (R263). -/
def causeCode : FaultCause → Byte
  | .bufferOutOfRange => 1
  | .outputTooShort => 2
  | .partialOverlap => 3

/-- `RES` with an error code: bits 7:0 `err`, bits 31:8 zero (10_state.md R23). -/
def resWord (err : Byte) : BitVec 32 := err.setWidth 32

end Sys2Proof.Machine
end

