-- ==== Sys2Proof/Machine/Ops.lean ====
section
/-! DEFINITION. The named operations over memory, registers and slots, and how a command ends: with a result, with an
error (60_exceptions.md R256, the whole of "trap entry"), with a contract fault (R262), with `Faulted` (10_state.md R25)
or as an illegal word (30_encoding.md R90). There is no return from an exception: control never leaves the host (R260). -/

namespace Sys2Proof.Machine

/-! ### Memory (20_memory.md) -/

/-- What an address that is not listed reads as. DESIGN CHOICE, unsafe (log entry 1): the spec leaves memory after reset
unspecified (10_state.md R45). -/
def unlistedByte : Byte := 0

/-- The byte at an address. -/
def Memory.read (m : List Host.Cell) (a : Nat) : Byte :=
  match m.find? (fun c => c.1 == a) with
  | some c => c.2
  | none => unlistedByte

/-- Put a cell before the first one of a larger address. -/
def Memory.insert (c : Host.Cell) : List Host.Cell → List Host.Cell
  | [] => [c]
  | d :: m => if c.1 < d.1 then c :: d :: m else d :: Memory.insert c m

/-- Write one byte: the cell takes its place in the rising order, or leaves the list where the byte is what an unlisted
address reads as. -/
def Memory.write (m : List Host.Cell) (a : Nat) (b : Byte) : List Host.Cell :=
  let others := m.filter fun c => c.1 != a
  if b = unlistedByte then others else Memory.insert (a, b) others

/-- The canonical form: addresses strictly rising, no entry equal to what an unlisted address reads as. -/
def Memory.wf (m : List Host.Cell) : Bool :=
  decide ((m.map fun c => c.1).Pairwise (· < ·)) && m.all fun c => c.2 != unlistedByte

/-- `MemRead(addr, n)`: offset 0 first (R62). -/
def Memory.readBytes (m : List Host.Cell) (addr n : Nat) : List Byte :=
  (List.range n).map fun k => Memory.read m (addr + k)

/-- `MemWrite(addr, n, v)`, the `n` bytes of `v` in rising address order (R63, 92_eei_decisions.md D18). -/
def Memory.writeBytes (m : List Host.Cell) (addr : Nat) : List Byte → List Host.Cell
  | [] => m
  | b :: bs => Memory.writeBytes (Memory.write m addr b) (addr + 1) bs

/-- Memory from a list of cells in any order, a later cell over an earlier one; addresses outside `0 .. size-1` do not
exist (R60). -/
def Memory.ofCells (size : Nat) (cells : List Host.Cell) : List Host.Cell :=
  (cells.filter fun c => decide (c.1 < size)).foldl (fun m c => Memory.write m c.1 c.2) []

/-- The state after `MemWrite(addr, n, v)`: the first `n` bytes of `v` stored (R63). -/
def State.store (s : State) (addr n : Nat) (v : List Byte) : State :=
  { s with mem := Memory.writeBytes s.mem addr (v.take n) }

/-- The `n` bytes of the state's memory at an address. -/
def State.load (s : State) (addr n : Nat) : List Byte := Memory.readBytes s.mem addr n

/-! ### Slots -/

/-- The state with a slot replaced. -/
def State.setSlot (s : State) (k : SlotId) (sl : Slot) : State :=
  { s with slots := s.slots.set k.val sl k.isLt }

/-- The slot a command names. -/
def State.slot (s : State) (k : SlotId) : Slot := s.slots[k]

/-- The key bytes in use, `key[0..key_len)`. -/
def Slot.keyBytes (sl : Slot) : List Byte := sl.key.toList.take sl.keyLen.toNat

/-- The block size as a number. -/
def Slot.bs (sl : Slot) : Nat := sl.blockSize.toNat

/-- Write `iv_buffer[0..bs)`, the rest unchanged. -/
def Slot.setChain (sl : Slot) (b : List Byte) : Slot :=
  { sl with ivBuffer := Vector.ofFn fun i => if h : i.val < b.length then b[i.val] else sl.ivBuffer[i] }

/-- Load `iv_buffer[0..bs)` with a block, zero the rest, `iv_length <- bs` (43_modes.md R189, R194). -/
def Slot.loadIv (sl : Slot) (b : List Byte) : Slot :=
  { sl with ivBuffer := Vector.ofFn fun i => b.getD i.val 0, ivLength := BitVec.ofNat 8 b.length }

/-- `iv_buffer[0..n)`. -/
def Slot.chain (sl : Slot) (n : Nat) : List Byte := sl.ivBuffer.toList.take n

/-! ### How a command ends -/

/-- What `R_LEFT` holds after a command: the counter of the slot it names, 0 if it names none or an absent one (10_state.md
R23, R256). -/
def State.resourceLeft (s : State) (k : Option SlotId) : BitVec 64 :=
  match k with
  | none => 0
  | some k => if (s.slot k).present then (s.slot k).resourceCounter else 0

/-- The end of a command with a code, `done` completed block calls and `req` requested ones: the result registers are
written and every transient is zeroed (10_state.md R23, R44, R256). -/
def State.conclude (s : State) (k : Option SlotId) (err : Byte) (done req : Nat) : State :=
  { s with
    res := resWord err
    rDone := BitVec.ofNat 32 done
    rReq := BitVec.ofNat 32 req
    rLeft := s.resourceLeft k
    seq := Sequencer.zero }

/-- Success (43_modes.md R185). -/
def State.succeed (s : State) (k : Option SlotId) (done req : Nat) : State := s.conclude k codeSuccess done req

/-- `raise <Kind>(done)` (R256): state written before stays written. -/
def State.raise (s : State) (k : Option SlotId) (e : ErrorKind) (done req : Nat) : State :=
  s.conclude k (errorCode e) done req

/-- `fault <Cause>` (R262): `FAULT`, `FAULT_CAUSE` and `RES` change, nothing else. -/
def State.breach (s : State) (c : FaultCause) : State :=
  { s with fault := true, faultCause := causeCode c, res := resWord codeFaulted }

/-- The end of every command that is issued while `FAULT = 1` (10_state.md R25): `RES` changes, nothing else. -/
def State.endFaulted (s : State) : State := { s with res := resWord codeFaulted }

/-- The end of an illegal command word (30_encoding.md R90). `R_DONE` and `R_REQ` become 0 by R90, against U17 and V71,
and `R_LEFT` keeps its value, against R23 (log entry 8). -/
def State.endInvalid (s : State) : State :=
  if s.fault then s.endFaulted
  else { s with res := resWord codeInvalidCommand, rDone := 0, rReq := 0 }

/-- How a check that fails ends the command. -/
inductive Stop where
  /-- a recoverable error, with the number of blocks requested if that is known (R256) -/
  | error (e : ErrorKind) (req : Nat)
  /-- a contract breach (R262) -/
  | breach (c : FaultCause)
  /-- an input the spec gives no meaning (60_exceptions.md R250) -/
  | refuse (r : Refusal)
  deriving DecidableEq, Repr

/-- A check: its failure condition and how the command then ends. -/
structure Check where
  fails : Bool
  stop : Stop
  deriving DecidableEq, Repr

/-- The first failing check, in order (60_exceptions.md R258). -/
def firstStop : List Check → Option Stop
  | [] => none
  | c :: cs => if c.fails then some c.stop else firstStop cs

/-- The command ends at a failing check; nothing of the block work has been done. -/
def State.stopAt (s : State) (k : Option SlotId) : Stop → Host.Outcome State Fault Refusal
  | .error e req => .next (s.raise k e 0 req)
  | .breach c => .next (s.breach c)
  | .refuse r => .refused r

/-- The shape of every host command: `Faulted` first (10_state.md R25), then the checks in order, then the effect. -/
def command (s : State) (k : Option SlotId) (checks : List Check) (effect : State) :
    Host.Outcome State Fault Refusal :=
  if s.fault then .next s.endFaulted
  else
    match firstStop checks with
    | some stop => s.stopAt k stop
    | none => .next effect

/-! ### What the host reads (10_state.md R21 to R23, R25) -/

/-- The host-visible registers. -/
inductive HostReg where
  | p (i : Fin 8)
  | cmd
  | res
  | done
  | req
  | left
  | fault
  | faultCause
  deriving DecidableEq, Repr

/-- The value of a host-visible register, widened to 64 bits. A read changes nothing. -/
def State.hostRead (s : State) : HostReg → BitVec 64
  | .p i => s.p[i].setWidth 64
  | .cmd => s.cmd.setWidth 64
  | .res => s.res.setWidth 64
  | .done => s.rDone.setWidth 64
  | .req => s.rReq.setWidth 64
  | .left => s.rLeft
  | .fault => (BitVec.ofBool s.fault).setWidth 64
  | .faultCause => s.faultCause.setWidth 64

end Sys2Proof.Machine
end

