-- ==== Sys2Proof/Machine/Field.lean ====
section
/-! DEFINITION. GF(2^8) arithmetic, vectors and matrices over it (40_table_builder.md R100 to R105, R108 to R113). The
field polynomial is an argument of every operation. -/

namespace Sys2Proof

/-! ### Field elements -/

/-- `gf_add` (R101). -/
def gfAdd (a b : Byte) : Byte := a ^^^ b

/-- `a <- a << 1; if a[8:8] = 1: a <- a ^ poly` of R102, on a value below 256 held in 9 bits. -/
def gfDouble (poly a : BitVec 9) : BitVec 9 :=
  let a2 := a <<< 1
  if a2.getLsbD 8 then a2 ^^^ poly else a2

/-- The loop of R102, `n` more times: `r` the sum so far, `a` the shifted multiplicand, `b` the rest of the
multiplier. -/
def gfMulLoop (poly : BitVec 9) : Nat → BitVec 9 → BitVec 9 → Byte → BitVec 9
  | 0, r, _, _ => r
  | n + 1, r, a, b =>
    gfMulLoop poly n (if b.getLsbD 0 then r ^^^ a else r) (gfDouble poly a) (b >>> 1)

/-- `gf_mul` under `poly` (R102). -/
def gfMul (poly : BitVec 9) (a b : Byte) : Byte := (gfMulLoop poly 8 0 (a.setWidth 9) b).setWidth 8

/-- `INVTAB[a]`: the byte `y` with `gf_mul(a, y) = 1`; the filler 0 where there is none, which no rule uses (R103). -/
def gfInv (poly : BitVec 9) (a : Byte) : Byte :=
  match (List.range 256).find? (fun y => decide (gfMul poly a (BitVec.ofNat 8 y) = 1)) with
  | some y => BitVec.ofNat 8 y
  | none => 0

/-- The sum of sixteen field elements. -/
def xorSum (f : Fin 16 → Byte) : Byte := (List.finRange 16).foldl (fun acc i => gfAdd acc (f i)) 0

/-! ### Vectors and matrices -/

/-- The unit vector `e_j` (R105). -/
def unitVec (j : Fin 16) : Vec16 := Vector.ofFn fun i => if i = j then 1 else 0

/-- The identity matrix `I` (R105). -/
def identity16 : Matrix16 := Vector.ofFn fun i => unitVec i

/-- `c * v`, every byte times one field element. -/
def scaleVec (poly : BitVec 9) (c : Byte) (v : Vec16) : Vec16 := Vector.ofFn fun i => gfMul poly c v[i]

/-- Bytewise XOR of two vectors. -/
def xorVec (a b : Vec16) : Vec16 := Vector.ofFn fun i => a[i] ^^^ b[i]

/-- `mat_apply(M, v)` (R105). -/
def matApply (poly : BitVec 9) (m : Matrix16) (v : Vec16) : Vec16 :=
  Vector.ofFn fun i => xorSum fun j => gfMul poly (m[i])[j] v[j]

/-- `mat_mul(A, B)` (R105). -/
def matMul (poly : BitVec 9) (a b : Matrix16) : Matrix16 :=
  Vector.ofFn fun i => Vector.ofFn fun j => xorSum fun k => gfMul poly (a[i])[k] (b[k])[j]

/-! ### The linear feedback step -/

/-- `LFSR_STEP` (R108): the feedback enters at index 0, the rest moves up by one. -/
def lfsrStep (poly : BitVec 9) (v taps : Vec16) : Vec16 :=
  Vector.ofFn fun i =>
    if h : i.val = 0 then xorSum fun j => gfMul poly taps[j] v[j] else v[i.val - 1]

/-- `LFSR_STEP` repeated `n` times. -/
def lfsrSteps (poly : BitVec 9) (taps : Vec16) : Nat → Vec16 → Vec16
  | 0, v => v
  | n + 1, v => lfsrSteps poly taps n (lfsrStep poly v taps)

/-- `generate_matrix(t)`: column `j` is the image of `e_j` after 16 steps (R109). -/
def generateMatrix (poly : BitVec 9) (taps : Vec16) : Matrix16 :=
  Vector.ofFn fun i => Vector.ofFn fun j => (lfsrSteps poly taps 16 (unitVec j))[i]

/-- The matrix of a profile's linear source (R110). -/
def matrixOf (poly : BitVec 9) : LinSource → Matrix16
  | .taps t => generateMatrix poly t
  | .matrix m => m

/-! ### `invert_matrix` (R112) -/

/-- The two matrices that the elimination transforms together. -/
structure Elimination where
  a : Matrix16
  b : Matrix16
  deriving DecidableEq, Repr

/-- The least row `r >= c` with a nonzero entry in column `c`. -/
def pivotRow (a : Matrix16) (c : Fin 16) : Option (Fin 16) :=
  (List.finRange 16).find? fun r => decide (c.val ≤ r.val) && decide ((a[r])[c] ≠ 0)

/-- Swap rows `c` and `r`. -/
def swapRows (m : Matrix16) (c r : Fin 16) : Matrix16 :=
  Vector.ofFn fun i => if i = c then m[r] else if i = r then m[c] else m[i]

/-- Multiply row `c` by a field element. -/
def scaleRow (poly : BitVec 9) (m : Matrix16) (c : Fin 16) (s : Byte) : Matrix16 :=
  Vector.ofFn fun i => if i = c then scaleVec poly s m[i] else m[i]

/-- Add `f[r] * (row c)` to every other row `r` whose factor `f[r]` is not zero. -/
def clearColumn (poly : BitVec 9) (m : Matrix16) (c : Fin 16) (f : Vec16) : Matrix16 :=
  Vector.ofFn fun r =>
    if r = c ∨ f[r] = 0 then m[r] else xorVec m[r] (scaleVec poly f[r] m[c])

/-- Column `c` of a matrix. -/
def columnOf (m : Matrix16) (c : Fin 16) : Vec16 := Vector.ofFn fun r => (m[r])[c]

/-- One column of the elimination; `none` where there is no pivot. -/
def eliminateColumn (poly : BitVec 9) (e : Elimination) (c : Fin 16) : Option Elimination :=
  match pivotRow e.a c with
  | none => none
  | some r =>
    let a1 := swapRows e.a c r
    let b1 := swapRows e.b c r
    let s := gfInv poly (a1[c])[c]
    let a2 := scaleRow poly a1 c s
    let b2 := scaleRow poly b1 c s
    let f := columnOf a2 c
    some ⟨clearColumn poly a2 c f, clearColumn poly b2 c f⟩

/-- The elimination over a list of columns, left to right. -/
def eliminate (poly : BitVec 9) : List (Fin 16) → Elimination → Option Elimination
  | [], e => some e
  | c :: cs, e =>
    match eliminateColumn poly e c with
    | none => none
    | some e' => eliminate poly cs e'

/-- `invert_matrix(M)`; `none` is `NotInvertible` (R112). -/
def invertMatrix (poly : BitVec 9) (m : Matrix16) : Option Matrix16 :=
  (eliminate poly (List.finRange 16) ⟨m, identity16⟩).map fun e => e.b

/-! ### `invert_permutation` (R114) -/

/-- How often a table hits the value `y`. -/
def hits (t : ByteTable) (y : Byte) : Nat := (List.finRange 256).countP fun x => decide (t[x] = y)

/-- Every value 0..255 is hit exactly once (R114). -/
def isPermutation (t : ByteTable) : Bool :=
  (List.range 256).all fun y => hits t (BitVec.ofNat 8 y) == 1

/-- The first place at which a table has the value `y`; 0 where it has none. -/
def placeOf (t : ByteTable) (y : Byte) : Byte :=
  match (List.finRange 256).find? (fun x => decide (t[x] = y)) with
  | some x => BitVec.ofFin x
  | none => 0

/-- `invert_permutation(S)`; `none` is `NotAPermutation` (R114). -/
def invertPermutation (t : ByteTable) : Option ByteTable :=
  if isPermutation t then some (Vector.ofFn fun y => placeOf t (BitVec.ofFin y)) else none

/-! ### Round tables -/

/-- One direction of `round_tables`: entry `[j][x]` is `S[x]` times column `j` of `M` (R116). -/
def roundTable (poly : BitVec 9) (m : Matrix16) (t : ByteTable) : RoundTable :=
  Vector.ofFn fun j => Vector.ofFn fun x => scaleVec poly t[x] (columnOf m j)

end Sys2Proof
end

