-- ==== Sys2Proof/Machine/Stages.lean ====
section
/-! DEFINITION. The stages of the round pipeline (42_cipher_core.md R151 to R154, R164 to R168) and the byte stages of the
AES profile (44_profile_aes.md R213, R214, R218, R219), as functions of the profile, the table set and the vectors. -/

namespace Sys2Proof.Machine

/-- `ADD_ROUND_KEY(v, k)` (R151). -/
def addRoundKey (v k : Vec16) : Vec16 := xorVec v k

/-- `SUB_BYTES(v)` (R152). -/
def subBytes (tbl : TableSet) (v : Vec16) : Vec16 := Vector.ofFn fun i => lookup tbl.perm v[i]

/-- `LINEAR(v)` (R153). -/
def linear (prf : Profile) (tbl : TableSet) (v : Vec16) : Vec16 := matApply prf.poly tbl.mat v

/-- `w[i] = v[pi[i]]` (R154). -/
def bytePerm (pi : Vector (Fin 16) 16) (v : Vec16) : Vec16 := Vector.ofFn fun i => v[pi[i]]

/-- `w[pi[i]] = v[i]` (R166); 0 at an index that `pi` does not hit, which a well-formed profile has not (00_scope.md R8). -/
def bytePermInv (pi : Vector (Fin 16) 16) (v : Vec16) : Vec16 :=
  Vector.ofFn fun j =>
    match (List.finRange 16).find? (fun i => decide (pi[i] = j)) with
    | some i => v[i]
    | none => 0

/-- `LINEAR_LAST(v)` (R154). -/
def linearLast (prf : Profile) (tbl : TableSet) (v : Vec16) : Vec16 :=
  match prf.lastLin with
  | .same => linear prf tbl v
  | .bytePerm pi => bytePerm pi v

/-- `INV_SUB_BYTES(v)` (R164). -/
def invSubBytes (tbl : TableSet) (v : Vec16) : Vec16 := Vector.ofFn fun i => lookup tbl.permInv v[i]

/-- `INV_LINEAR(v)` (R165). -/
def invLinear (prf : Profile) (tbl : TableSet) (v : Vec16) : Vec16 := matApply prf.poly tbl.matInv v

/-- `INV_LINEAR_LAST(v)` (R166). -/
def invLinearLast (prf : Profile) (tbl : TableSet) (v : Vec16) : Vec16 :=
  match prf.lastLin with
  | .same => invLinear prf tbl v
  | .bytePerm pi => bytePermInv pi v

/-- The sum over `j` of the table entries `t[j][v[j]]`: 16 lookups and their XOR (R167, R168). -/
def tableRound (t : RoundTable) (v : Vec16) : Vec16 :=
  Vector.ofFn fun i => xorSum fun j => (lookup t[j] v[j])[i]

/-- `ROUND_T(v)` (R167). -/
def roundT (tbl : TableSet) (v : Vec16) : Vec16 := tableRound tbl.fwd v

/-- `INV_ROUND_T(v)` (R168). -/
def invRoundT (tbl : TableSet) (v : Vec16) : Vec16 := tableRound tbl.bwd v

/-! ### The byte stages of the AES profile -/

/-- `SHIFT_ROWS(v)`: `w[r + 4*c] = v[r + 4*((c + r) mod 4)]` (R213). -/
def shiftRows (v : Vec16) : Vec16 :=
  Vector.ofFn fun i => v[i.val % 4 + 4 * ((i.val / 4 + i.val % 4) % 4)]

/-- `INV_SHIFT_ROWS(v)`: `w[r + 4*((c + r) mod 4)] = v[r + 4*c]`, row `r` rotated right by `r` (R218). -/
def invShiftRows (v : Vec16) : Vec16 :=
  Vector.ofFn fun i => v[i.val % 4 + 4 * ((i.val / 4 + 4 - i.val % 4) % 4)]

/-- Each column of four bytes times the circulant matrix with first row `c0 c1 c2 c3`, under `0x11B` (R214, R219):
`w[r + 4c]` is the sum over `k` of `circ[(k - r) mod 4] * v[k + 4c]`. -/
def circulantColumns (circ : Vector Byte 4) (v : Vec16) : Vec16 :=
  Vector.ofFn fun i =>
    let c := i.val / 4
    let r := i.val % 4
    (List.finRange 4).foldl
      (fun acc k => gfAdd acc (gfMul 0x11B (circ[(k.val + 4 - r) % 4]) (v[k.val + 4 * c]))) 0

/-- `MIX_COLUMNS(v)`, circulant `02 03 01 01` (R214). -/
def mixColumns (v : Vec16) : Vec16 := circulantColumns #v[0x02, 0x03, 0x01, 0x01] v

/-- `INV_MIX_COLUMNS(v)`, circulant `0e 0b 0d 09` (R219). -/
def invMixColumns (v : Vec16) : Vec16 := circulantColumns #v[0x0e, 0x0b, 0x0d, 0x09] v

end Sys2Proof.Machine
end

