-- ==== Sys2Proof/Machine/Schedule.lean ====
section
/-! DEFINITION. Key lengths and resource maxima of a kind (41_key_object.md R139), the key expansions (44_profile_aes.md
R217, 45_profile_gost.md R236), `SCHEDULE_KEYS`, `ERASE_KEYS` and `install_key` (42_cipher_core.md R160, R161, 41_key_object.md
R136). -/

namespace Sys2Proof.Machine

/-! ### What a kind accepts (R139) -/

/-- The key lengths of a kind. -/
def keyLengths (par : Params) : Kind → List Nat
  | .unbound => []
  | .b8 =>
    match par.alg8 with
    | some a => a.keyLengths
    | none => []
  | .b16t | .b16p => par.profile.keySizes.map fun z => z.len

/-- A key length is accepted; zero never is (R133, 60_exceptions.md R254; log entry 18). -/
def acceptsKeyLen (par : Params) (kind : Kind) (n : Nat) : Bool :=
  decide (n ≠ 0) && (keyLengths par kind).contains n

/-- The default key length of a kind: the profile's for the 16-byte kinds (R134). For `B8` the spec names none, and that it is a
parameter of `alg8` is the model's choice (log entry 31). -/
def defaultKeyLen (par : Params) : Kind → Nat
  | .unbound => 0
  | .b8 =>
    match par.alg8 with
    | some a => a.keyLenDefault
    | none => 0
  | .b16t | .b16p => par.profile.keyLenDefault

/-- `resource_max(kind)` (R139). -/
def resourceMax (par : Params) : Kind → BitVec 64
  | .unbound => 0
  | .b8 => par.resourceMax.b8
  | .b16t => par.resourceMax.b16t
  | .b16p => par.resourceMax.b16p

/-- `Nr(key_len)` of a profile (00_scope.md R8). -/
def roundsOf (prf : Profile) (n : Nat) : Nat :=
  match prf.keySizes.find? (fun z => z.len == n) with
  | some z => z.rounds
  | none => 0

/-! ### `EXPAND_AES` (R217) -/

/-- A word of the AES key schedule: a 4-byte string. -/
abbrev Word4 := Vector Byte 4

/-- The zero word, read beyond the end of a list of words. -/
def Word4.zero : Word4 := Vector.replicate 4 0

/-- `RotWord`: `t[1] t[2] t[3] t[0]`. -/
def rotWord (t : Word4) : Word4 := #v[t[1], t[2], t[3], t[0]]

/-- `SubWord`, each byte through `TBL.PERM`. -/
def subWord (tbl : TableSet) (t : Word4) : Word4 := Vector.ofFn fun i => lookup tbl.perm t[i]

/-- Add the round constant to byte 0. -/
def addRcon (t : Word4) (rc : Byte) : Word4 := #v[t[0] ^^^ rc, t[1], t[2], t[3]]

/-- Bytewise XOR of two words. -/
def xorWord (a b : Word4) : Word4 := Vector.ofFn fun i => a[i] ^^^ b[i]

/-- The loop of R217 from word `i` on, `n` more words; `ws` holds the words so far, `rc` the next round constant. -/
def expandAesLoop (prf : Profile) (tbl : TableSet) (nk : Nat) : Nat → Nat → Byte → List Word4 → List Word4
  | 0, _, _, ws => ws
  | n + 1, i, rc, ws =>
    let t := ws.getD (i - 1) Word4.zero
    let first := decide (i % nk = 0)
    let t' :=
      if first then addRcon (subWord tbl (rotWord t)) rc
      else if decide (6 < nk) && decide (i % nk = 4) then subWord tbl t
      else t
    let rc' := if first then gfMul prf.poly rc 0x02 else rc
    expandAesLoop prf tbl nk n (i + 1) rc' (ws ++ [xorWord (ws.getD (i - nk) Word4.zero) t'])

/-- The key as words `w[0 .. nk-1]`. -/
def keyWords (key : List Byte) (nk : Nat) : List Word4 :=
  (List.range nk).map fun i => Vector.ofFn fun b => key.getD (4 * i + b.val) 0

/-- `EXPAND_AES(key)` for `nr` rounds: the round keys `rk[0 .. nr]` (R217; log entry 15). -/
def expandAes (prf : Profile) (tbl : TableSet) (key : List Byte) (nr : Nat) : List Vec16 :=
  let nk := key.length / 4
  let ws := expandAesLoop prf tbl nk (4 * (nr + 1) - nk) nk 0x01 (keyWords key nk)
  (List.range (nr + 1)).map fun r =>
    Vector.ofFn fun b => (ws.getD (4 * r + b.val / 4) Word4.zero)[b.val % 4]

/-! ### `EXPAND_GOST` (R236) -/

/-- `C_n = L(0^15 ‖ byte(n))`. -/
def gostConstant (prf : Profile) (tbl : TableSet) (n : Nat) : Vec16 :=
  linear prf tbl (Vector.ofFn fun i => if i.val = 15 then BitVec.ofNat 8 n else 0)

/-- `F(c, (a1, a0)) = (L(S(a1 ^ c)) ^ a0, a1)`. -/
def gostFeistel (prf : Profile) (tbl : TableSet) (c : Vec16) (a : Vec16 × Vec16) : Vec16 × Vec16 :=
  (xorVec (linear prf tbl (subBytes tbl (xorVec a.1 c))) a.2, a.1)

/-- `F` for the constants `C_j`, `C_{j+1}`, .., `n` of them. -/
def gostFeistelRun (prf : Profile) (tbl : TableSet) : Nat → Nat → Vec16 × Vec16 → Vec16 × Vec16
  | 0, _, a => a
  | n + 1, j, a => gostFeistelRun prf tbl n (j + 1) (gostFeistel prf tbl (gostConstant prf tbl j) a)

/-- The pairs `(K_{2i+1}, K_{2i+2})` for `n` values of `i` from a pair on, eight constants each, `j` the next one. -/
def gostPairs (prf : Profile) (tbl : TableSet) : Nat → Nat → Vec16 × Vec16 → List Vec16
  | 0, _, _ => []
  | n + 1, j, a =>
    let a' := gostFeistelRun prf tbl 8 j a
    a'.1 :: a'.2 :: gostPairs prf tbl n (j + 8) a'

/-- `EXPAND_GOST(key)`: the ten round keys `K_1 .. K_10` (R236). R236 gives it for a key of 32 bytes
alone: that a shorter key is filled up with zeros and a longer one cut is the model's choice (log entry 15). -/
def expandGost (prf : Profile) (tbl : TableSet) (key : List Byte) : List Vec16 :=
  let k1 := Vec16.ofList (key.take 16)
  let k2 := Vec16.ofList (key.drop 16)
  k1 :: k2 :: gostPairs prf tbl 4 1 (k1, k2)

/-! ### `SCHEDULE_KEYS`, `ERASE_KEYS`, `install_key` -/

/-- The round-key place from the first `n` keys of a list; the entries beyond are zero (R160). Where the list is shorter, as for
`EXPAND_GOST` under a profile with more than nine rounds, the missing keys are zero, the model's choice (log entry 15). -/
def placeKeys (ks : List Vec16) (n : Nat) : RoundKeys :=
  Vector.ofFn fun i => if i.val < n then ks.getD i.val Vec16.zero else Vec16.zero

/-- `SCHEDULE_KEYS` on a slot (R160). -/
def Slot.scheduleKeys (par : Params) (tbl : TableSet) (sl : Slot) : Slot :=
  let key := sl.keyBytes
  match sl.kind with
  | .b8 => { sl with rk := Config.alg8Schedule key, nrk := Config.alg8Nrk key }
  | .unbound | .b16t | .b16p =>
    let nr := roundsOf par.profile sl.keyLen.toNat
    let ks :=
      match par.profile.expand with
      | .aes => expandAes par.profile tbl key nr
      | .gost => expandGost par.profile tbl key
    { sl with rk := placeKeys ks (nr + 1), nrk := BitVec.ofNat 4 (nr + 1) }

/-- `ERASE_KEYS` on a slot (R161). -/
def Slot.eraseKeys (sl : Slot) : Slot := { sl with rk := RoundKeys.zero, nrk := 0 }

/-- The key field with the bytes of `kb`, zero beyond them (10_state.md R30). -/
def keyField (kb : List Byte) : Vector Byte 32 := Vector.ofFn fun i => kb.getD i.val 0

/-- `install_key(s, kb)` on a slot (R136): the old round keys and key are zeroed, the new key and its tag stored, the new
round keys scheduled. -/
def Slot.installKey (par : Params) (tbl : TableSet) (sl : Slot) (kb : List Byte) : Slot :=
  let erased := { sl.eraseKeys with key := Vector.replicate 32 0, keyLen := 0, keyTag := 0 }
  Slot.scheduleKeys par tbl
    { erased with
      key := keyField kb, keyLen := BitVec.ofNat 8 kb.length, keyTag := Config.icode kb, keySet := true }

end Sys2Proof.Machine
end

