-- ==== Sys2Proof/Machine/Block.lean ====
section
/-! DEFINITION. The block operations of the bindings (42_cipher_core.md R150, R155 to R158, R169), the resource-checked calls
`E` and `D` (R162, R163), and the derivation of the next key (41_key_object.md R137). -/

namespace Sys2Proof.Machine

/-! ### The 16-byte cipher -/

/-- `rk[i]`; beyond the place of the round keys a zero key (log entry 30). -/
def roundKey (rk : RoundKeys) (i : Nat) : Vec16 := if h : i < 15 then rk[i] else Vec16.zero

/-- `n` rounds `v <- f(v) ^ rk[i]` for `i`, `i+1`, .. (R150, R157). -/
def forwardRounds (f : Vec16 → Vec16) (rk : RoundKeys) : Nat → Nat → Vec16 → Vec16
  | 0, _, v => v
  | n + 1, i, v => forwardRounds f rk n (i + 1) (addRoundKey (f v) (roundKey rk i))

/-- The rounds `v <- g(rk[i], v)` for `i = n` downto 1 (R156, R158). -/
def backwardRounds (g : Vec16 → Vec16 → Vec16) (rk : RoundKeys) : Nat → Vec16 → Vec16
  | 0, v => v
  | n + 1, v => backwardRounds g rk n (g (roundKey rk (n + 1)) v)

/-- `ENCRYPT_BLOCK` of kind `B16P`: R150 with every stage evaluated directly (R155). -/
def encryptPlain (prf : Profile) (tbl : TableSet) (rk : RoundKeys) (nr : Nat) (b : Vec16) : Vec16 :=
  let v := addRoundKey b (roundKey rk 0)
  let v := forwardRounds (fun x => linear prf tbl (subBytes tbl x)) rk (nr - 1) 1 v
  addRoundKey (linearLast prf tbl (subBytes tbl v)) (roundKey rk nr)

/-- `DECRYPT_BLOCK` of kind `B16P`: the inverse, stage by stage (R156). -/
def decryptPlain (prf : Profile) (tbl : TableSet) (rk : RoundKeys) (nr : Nat) (c : Vec16) : Vec16 :=
  let v := invSubBytes tbl (invLinearLast prf tbl (addRoundKey c (roundKey rk nr)))
  let v := backwardRounds (fun k x => invSubBytes tbl (invLinear prf tbl (addRoundKey x k))) rk (nr - 1) v
  addRoundKey v (roundKey rk 0)

/-- `ENCRYPT_BLOCK` of kind `B16T` (R157). -/
def encryptTabled (prf : Profile) (tbl : TableSet) (rk : RoundKeys) (nr : Nat) (b : Vec16) : Vec16 :=
  let v := addRoundKey b (roundKey rk 0)
  let v := forwardRounds (roundT tbl) rk (nr - 1) 1 v
  match prf.lastLin with
  | .same => addRoundKey (roundT tbl v) (roundKey rk nr)
  | .bytePerm _ => addRoundKey (linearLast prf tbl (subBytes tbl v)) (roundKey rk nr)

/-- `DECRYPT_BLOCK` of kind `B16T` (R158). -/
def decryptTabled (prf : Profile) (tbl : TableSet) (rk : RoundKeys) (nr : Nat) (c : Vec16) : Vec16 :=
  let v := invLinearLast prf tbl (addRoundKey c (roundKey rk nr))
  let v := backwardRounds (fun k x => addRoundKey (invRoundT tbl x) (invLinear prf tbl k)) rk (nr - 1) v
  addRoundKey (invSubBytes tbl v) (roundKey rk 0)

/-! ### Dispatch by kind (R169) -/

/-- The two directions of a block call. -/
inductive Direction where
  | encrypt
  | decrypt
  deriving DecidableEq, Repr

/-- `ENCRYPT_BLOCK` of a slot (R155, R157, `alg8.E8`). For `unbound` there is no operation and no command reaches this
(R169): the block is passed on and no rule sees it. -/
def encryptBlock (par : Params) (tbl : TableSet) (sl : Slot) (b : List Byte) : List Byte :=
  match sl.kind with
  | .unbound => b
  | .b8 => (Config.alg8Block sl.rk (vec8OfList b)).toList
  | .b16t => (encryptTabled par.profile tbl sl.rk (sl.nrk.toNat - 1) (Vec16.ofList b)).toList
  | .b16p => (encryptPlain par.profile tbl sl.rk (sl.nrk.toNat - 1) (Vec16.ofList b)).toList

/-- `DECRYPT_BLOCK` of a slot (R156, R158, `alg8.D8`). -/
def decryptBlock (par : Params) (tbl : TableSet) (sl : Slot) (b : List Byte) : List Byte :=
  match sl.kind with
  | .unbound => b
  | .b8 => ((Config.alg8Block sl.rk).symm (vec8OfList b)).toList
  | .b16t => (decryptTabled par.profile tbl sl.rk (sl.nrk.toNat - 1) (Vec16.ofList b)).toList
  | .b16p => (decryptPlain par.profile tbl sl.rk (sl.nrk.toNat - 1) (Vec16.ofList b)).toList

/-- The block operation of a slot in a direction. -/
def blockOp (dir : Direction) (par : Params) (tbl : TableSet) (sl : Slot) (b : List Byte) : List Byte :=
  match dir with
  | .encrypt => encryptBlock par tbl sl b
  | .decrypt => decryptBlock par tbl sl b

/-! ### The resource-checked calls -/

/-- A command at work: the state so far and `done`, its count of completed block calls (R162). -/
structure Job where
  st : State
  done : Nat
  deriving DecidableEq, Repr

/-- `E(s, b)` and `D(s, b)` (R162, R163). `error j` is `raise LowKeyResource(done)`, `j` what has been done so far. The check
is before the block, so the counter never wraps. -/
def blockCall (dir : Direction) (k : SlotId) (b : List Byte) (j : Job) : Except Job (Job × List Byte) :=
  let sl := j.st.slot k
  if sl.resourceCounter = 0 then .error j
  else
    .ok (⟨j.st.setSlot k { sl with resourceCounter := sl.resourceCounter - 1 }, j.done + 1⟩,
      blockOp dir j.st.par j.st.tbl sl b)

/-- `body i`, `body (i+1)`, .. `n` times, ended by the first `LowKeyResource` (60_exceptions.md R259). -/
def blocksLoop (body : Nat → Job → Except Job Job) : Nat → Nat → Job → Except Job Job
  | 0, _, j => .ok j
  | n + 1, i, j =>
    match body i j with
    | .error j' => .error j'
    | .ok j' => blocksLoop body n (i + 1) j'

/-! ### Deriving the next key (R137) -/

/-- `J = ceil(key_len / bs)`, the number of constant blocks a derivation encrypts. -/
def Slot.derivationBlocks (sl : Slot) : Nat := ceilDiv sl.keyLen.toNat sl.bs

/-- `acpkm_D[j*bs .. (j+1)*bs)`. -/
def acpkmBlock (prf : Profile) (bs j : Nat) : List Byte := (prf.acpkmD.toList.drop (j * bs)).take bs

/-- `buf <- buf ‖ E(s, acpkm_D[j*bs .. (j+1)*bs))` for `n` values of `j`. -/
def derivationLoop (k : SlotId) (bs : Nat) : Nat → Nat → List Byte → Job → Except Job (Job × List Byte)
  | 0, _, buf, j => .ok (j, buf)
  | n + 1, i, buf, j =>
    match blockCall .encrypt k (acpkmBlock j.st.par.profile bs i) j with
    | .error j' => .error j'
    | .ok (j', c) => derivationLoop k bs n (i + 1) (buf ++ c) j'

/-- `derive_next(s)`: the constant blocks encrypted under the current key give the new one, which is installed; the counter is
not reloaded and the IV is untouched (R137). A counter below `J` ends it before anything is encrypted. -/
def deriveNext (k : SlotId) (j : Job) : Except Job Job :=
  let sl := j.st.slot k
  if sl.resourceCounter.toNat < sl.derivationBlocks then .error j
  else
    match derivationLoop k sl.bs sl.derivationBlocks 0 [] j with
    | .error j' => .error j'
    | .ok (j', buf) =>
      .ok ⟨j'.st.setSlot k
        (Slot.installKey j'.st.par j'.st.tbl (j'.st.slot k) (buf.take sl.keyLen.toNat)), j'.done⟩

/-- The end of a command that makes block calls: success with `R_DONE = R_REQ`, or `LowKeyResource` with what was done
(43_modes.md R184, R185). -/
def finishJob (k : SlotId) (req : Nat) : Except Job Job → State
  | .ok j => j.st.succeed (some k) j.done req
  | .error j => j.st.raise (some k) .lowKeyResource j.done req

end Sys2Proof.Machine
end

