-- ==== Sys2Proof/Machine/Internal.lean ====
section
/-! DEFINITION. The internal operations as instructions of their own (30_encoding.md R86): the entries of a slot's operation
table and the micro-operations. Their operands stand in the sequencer's latches, and a resulting vector replaces latch `v`
(log entry 5). They write no flag and raise nothing. -/

namespace Sys2Proof.Machine

/-- The state with a new cipher state in latch `v`. -/
def State.setV (s : State) (v : Vec16) : State := { s with seq := { s.seq with v := v } }

/-- The state with the result of an operation that reads the table arrays. While `TBL.valid = 0` they are unspecified and are
not read (10_state.md R45): the result is a free value (log entry 11). -/
def State.setTableV (s : State) (v : Vec16) : State :=
  if s.tbl.valid then s.setV v
  else { s.setV (Config.unspecifiedVec s.draws) with draws := s.draws + 1 }

/-- Latch `v` as the block of a slot: its first `bs` bytes. -/
def State.latchBlock (s : State) : List Byte := s.seq.v.toList.take (s.slot s.seq.slot).bs

/-- A block operation issued for the latched slot: defined where an algorithm is bound and a key is set (42_cipher_core.md
R155, R169; log entry 24). Kind `B8` reads no table. -/
def blockEntry (dir : Direction) (s : State) : Host.Outcome State Fault Refusal :=
  let sl := s.slot s.seq.slot
  let result := Vec16.ofList (blockOp dir s.par s.tbl sl s.latchBlock)
  if sl.kind = .unbound then .fault .noOperationBound
  else if sl.keySet = false then .fault .noKeyInstalled
  else if sl.kind = .b8 then .next (s.setV result)
  else .next (s.setTableV result)

/-- `ENCRYPT_BLOCK` (R155, R157). -/
def execEncryptBlock (s : State) : Host.Outcome State Fault Refusal := blockEntry .encrypt s

/-- `DECRYPT_BLOCK` (R156, R158). -/
def execDecryptBlock (s : State) : Host.Outcome State Fault Refusal := blockEntry .decrypt s

/-- `SCHEDULE_KEYS` (R160): the caller has validated the key length (log entry 24). While `TBL.valid = 0` the round keys of a 16-byte kind are
a free value (log entry 11). -/
def execScheduleKeys (s : State) : Host.Outcome State Fault Refusal :=
  let k := s.seq.slot
  let sl := s.slot k
  if sl.kind = .unbound then .fault .noOperationBound
  else if acceptsKeyLen s.par sl.kind sl.keyLen.toNat = false then .fault .keyLengthNotValidated
  else
    let scheduled := Slot.scheduleKeys s.par s.tbl sl
    if sl.kind = .b8 ∨ s.tbl.valid = true then .next (s.setSlot k scheduled)
    else
      .next
        { s.setSlot k
            { scheduled with
              rk := placeKeys (Config.unspecifiedKeys s.draws).toList
                (roundsOf s.par.profile sl.keyLen.toNat + 1) } with
          draws := s.draws + 1 }

/-- `ERASE_KEYS` (R161): raises nothing; erasing an erased schedule is a no-op. -/
def execEraseKeys (s : State) : Host.Outcome State Fault Refusal :=
  .next (s.setSlot s.seq.slot (s.slot s.seq.slot).eraseKeys)

/-- `ADD_ROUND_KEY` (R151): the round key is in latch `k`. -/
def execAddRoundKey (s : State) : Host.Outcome State Fault Refusal := .next (s.setV (addRoundKey s.seq.v s.seq.k))

/-- `SUB_BYTES` (R152). -/
def execSubBytes (s : State) : Host.Outcome State Fault Refusal := .next (s.setTableV (subBytes s.tbl s.seq.v))

/-- `LINEAR` (R153). -/
def execLinear (s : State) : Host.Outcome State Fault Refusal :=
  .next (s.setTableV (linear s.par.profile s.tbl s.seq.v))

/-- `LINEAR_LAST` (R154). -/
def execLinearLast (s : State) : Host.Outcome State Fault Refusal :=
  let result := linearLast s.par.profile s.tbl s.seq.v
  match s.par.profile.lastLin with
  | .same => .next (s.setTableV result)
  | .bytePerm _ => .next (s.setV result)

/-- `INV_SUB_BYTES` (R164). -/
def execInvSubBytes (s : State) : Host.Outcome State Fault Refusal := .next (s.setTableV (invSubBytes s.tbl s.seq.v))

/-- `INV_LINEAR` (R165). -/
def execInvLinear (s : State) : Host.Outcome State Fault Refusal :=
  .next (s.setTableV (invLinear s.par.profile s.tbl s.seq.v))

/-- `INV_LINEAR_LAST` (R166). -/
def execInvLinearLast (s : State) : Host.Outcome State Fault Refusal :=
  let result := invLinearLast s.par.profile s.tbl s.seq.v
  match s.par.profile.lastLin with
  | .same => .next (s.setTableV result)
  | .bytePerm _ => .next (s.setV result)

/-- `ROUND_T` (R167). -/
def execRoundT (s : State) : Host.Outcome State Fault Refusal := .next (s.setTableV (roundT s.tbl s.seq.v))

/-- `INV_ROUND_T` (R168). -/
def execInvRoundT (s : State) : Host.Outcome State Fault Refusal := .next (s.setTableV (invRoundT s.tbl s.seq.v))

/-- A micro-operation that the AES profile alone has (R86): latch `v` takes its result under `PROFILE_AES`, and under any other
profile the machine has no such operation (log entry 14). -/
def aesStage (f : Vec16 → Vec16) (s : State) : Host.Outcome State Fault Refusal :=
  if s.par.profile.isAes then .next (s.setV (f s.seq.v)) else .refused .aesProfileOnly

/-- `SHIFT_ROWS` (R213). -/
def execShiftRows (s : State) : Host.Outcome State Fault Refusal := aesStage shiftRows s

/-- `MIX_COLUMNS` (R214). -/
def execMixColumns (s : State) : Host.Outcome State Fault Refusal := aesStage mixColumns s

/-- `INV_SHIFT_ROWS` (R218). -/
def execInvShiftRows (s : State) : Host.Outcome State Fault Refusal := aesStage invShiftRows s

/-- `INV_MIX_COLUMNS` (R219). -/
def execInvMixColumns (s : State) : Host.Outcome State Fault Refusal := aesStage invMixColumns s

/-- `LFSR_STEP` (R108): the taps are in latch `k`. -/
def execLfsrStep (s : State) : Host.Outcome State Fault Refusal :=
  .next (s.setV (lfsrStep s.par.profile.poly s.seq.v s.seq.k))

end Sys2Proof.Machine
end

