-- ==== Sys2Proof/Machine/Operands.lean ====
section
/-! DEFINITION. Operand forms: the buffers that the operand registers hold per format (30_encoding.md R84), the null, range
and overlap conditions on them (20_memory.md R66, R67, R69). -/

namespace Sys2Proof.Machine

/-- A buffer operand `(addr, len)` (20_memory.md R61). -/
structure Buffer where
  addr : Nat
  len : Nat
  deriving DecidableEq, Repr

/-- First buffer of the formats `T`, `SK` and `M`: `(P0, P1)`. -/
def State.buf0 (s : State) : Buffer := ⟨(s.p[0]).toNat, (s.p[1]).toNat⟩

/-- Second buffer of the formats `T` and `M`: `(P2, P3)`. -/
def State.buf1 (s : State) : Buffer := ⟨(s.p[2]).toNat, (s.p[3]).toNat⟩

/-- IV buffer of the format `M`: `(P4, P5)`. -/
def State.buf2 (s : State) : Buffer := ⟨(s.p[4]).toNat, (s.p[5]).toNat⟩

/-- `P6` of the format `M`: the section length of `CTR_ACPKM`, the tag length of `CMAC`. -/
def State.extra (s : State) : Nat := (s.p[6]).toNat

/-- A buffer with `len > 0` and `addr = 0` is a missing argument (R66). -/
def Buffer.missing (b : Buffer) : Bool := decide (0 < b.len) && decide (b.addr = 0)

/-- `addr + len > MEM_SIZE` for a buffer with `len > 0`, without wrap-around (R62, R67, 60_exceptions.md R263). -/
def Buffer.outOfRange (size : Nat) (b : Buffer) : Bool := decide (0 < b.len) && decide (size < b.addr + b.len)

/-- Two byte ranges share a byte. -/
def rangesMeet (a n b m : Nat) : Bool := decide (max a b < min (a + n) (b + m))

/-- The bytes written, `n` at `dst`, meet the input buffer other than by exact alias (R69). -/
def partialOverlap (dst n : Nat) (input : Buffer) : Bool :=
  decide (dst ≠ input.addr) && rangesMeet dst n input.addr input.len

/-- The bytes written meet the IV buffer: no alias is allowed there (R69). -/
def ivOverlap (dst n : Nat) (iv : Buffer) : Bool := rangesMeet dst n iv.addr iv.len

/-- The contract checks of 20_memory.md R67, least cause code first (60_exceptions.md R263): every buffer in range, the
output long enough, no overlap (log entries 20 and 21). -/
def contractChecks (size : Nat) (buffers : List Buffer) (tooShort overlap : Bool) : List Check :=
  [ ⟨buffers.any fun b => b.outOfRange size, .breach .bufferOutOfRange⟩,
    ⟨tooShort, .breach .outputTooShort⟩,
    ⟨overlap, .breach .partialOverlap⟩ ]

end Sys2Proof.Machine
end

