-- ==== Sys2Proof/Machine/KeyObject.lean ====
section
/-! DEFINITION. The commands of the key object's life (41_key_object.md R130 to R138). -/

namespace Sys2Proof.Machine

/-- Check (3) of R130: the slot is absent. -/
def absentCheck (s : State) (k : SlotId) : Check := ⟨!(s.slot k).present, .error .nullOrMissingArgument 0⟩

/-- The slot has no operation table (60_exceptions.md R253). -/
def unboundCheck (s : State) (k : SlotId) : Check :=
  ⟨decide ((s.slot k).kind = .unbound), .error .wrongBlockCipher 0⟩

/-- The slot holds no key (60_exceptions.md R254). -/
def unkeyedCheck (s : State) (k : SlotId) : Check := ⟨!(s.slot k).keySet, .error .keyValueUndefined 0⟩

/-- `CREATE k<s>, <block_size>` (R131). -/
def execCreate (slot : SlotId) (blockSize : Nat) (s : State) : Host.Outcome State Fault Refusal :=
  command s (some slot)
    [ ⟨(s.slot slot).present, .error .invalidParameter 0⟩,
      ⟨decide (blockSize ≠ 8) && decide (blockSize ≠ 16), .error .invalidParameter 0⟩ ]
    ((s.setSlot slot { Slot.zero with present := true, blockSize := BitVec.ofNat 8 blockSize }).succeed
      (some slot) 0 0)

/-- The kind that `BIND` installs. -/
def kindOfBind : BindKind → Kind
  | .b8 => .b8
  | .b16t => .b16t
  | .b16p => .b16p

/-- The block size of a kind (R132). -/
def bindBlockSize : BindKind → BitVec 8
  | .b8 => 8
  | .b16t | .b16p => 16

/-- `BIND k<s>, B8|B16T|B16P` (R132; its refusal: log entry 22). -/
def execBind (slot : SlotId) (kind : BindKind) (s : State) : Host.Outcome State Fault Refusal :=
  let sl := s.slot slot
  command s (some slot)
    [ absentCheck s slot,
      ⟨decide (sl.kind ≠ .unbound), .error .wrongBlockCipher 0⟩,
      ⟨decide (sl.blockSize ≠ bindBlockSize kind), .error .wrongBlockCipher 0⟩,
      ⟨decide (kind = .b8) && s.par.alg8.isNone, .refuse .alg8Absent⟩,
      ⟨decide (kind ≠ .b8) && !s.tbl.valid, .error .wrongBlockCipher 0⟩ ]
    ((s.setSlot slot { sl with kind := kindOfBind kind }).succeed (some slot) 0 0)

/-- The common end of `SET_KEY` and `SET_KEY_RANDOM`: the key is installed, the counter loaded with the kind's maximum, the IV
zeroed (R133, R134). -/
def State.setKey (s : State) (k : SlotId) (kb : List Byte) : State :=
  let sl := Slot.installKey s.par s.tbl (s.slot k) kb
  (s.setSlot k
    { sl with
      resourceCounter := resourceMax s.par sl.kind
      ivBuffer := Vector.replicate 64 0
      ivLength := 0 }).succeed (some k) 0 0

/-- `SET_KEY k<s>, key=(P0,P1)` (R133). -/
def execSetKey (slot : SlotId) (s : State) : Host.Outcome State Fault Refusal :=
  command s (some slot)
    ([ absentCheck s slot,
       ⟨s.buf0.missing, .error .nullOrMissingArgument 0⟩,
       unboundCheck s slot,
       ⟨!acceptsKeyLen s.par (s.slot slot).kind s.buf0.len, .error .wrongKeyLength 0⟩ ] ++
     contractChecks s.par.memSize [s.buf0] false false)
    (s.setKey slot (s.load s.buf0.addr s.buf0.len))

/-- The length `SET_KEY_RANDOM` draws: the immediate, or the kind's default for 0 (R134). -/
def randomKeyLen (s : State) (slot : SlotId) (keyLen : Nat) : Nat :=
  if keyLen = 0 then defaultKeyLen s.par (s.slot slot).kind else keyLen

/-- `SET_KEY_RANDOM k<s>, <key_len>` (R134): one draw; `Exhausted` ends with `KeyValueUndefined` and leaves the slot as it
was (60_exceptions.md R255). -/
def execSetKeyRandom (slot : SlotId) (keyLen : Nat) (s : State) : Host.Outcome State Fault Refusal :=
  let n := randomKeyLen s slot keyLen
  let s1 := { s with draws := s.draws + 1 }
  command s (some slot)
    [ absentCheck s slot,
      unboundCheck s slot,
      ⟨!acceptsKeyLen s.par (s.slot slot).kind n, .error .wrongKeyLength 0⟩ ]
    (match Config.rngFill s.draws n with
     | none => s1.raise (some slot) .keyValueUndefined 0 0
     | some b => s1.setKey slot b.toList)

/-- `DERIVE_NEXT k<s>` (R137). -/
def execDeriveNext (slot : SlotId) (s : State) : Host.Outcome State Fault Refusal :=
  let sl := s.slot slot
  let req := sl.derivationBlocks
  command s (some slot)
    [ absentCheck s slot,
      unboundCheck s slot,
      unkeyedCheck s slot,
      ⟨decide (sl.resourceCounter.toNat < req), .error .lowKeyResource req⟩ ]
    (finishJob slot req (deriveNext slot ⟨s, 0⟩))

/-- `DESTROY k<s>` (R138): every bit of the slot is zeroed; an absent slot is left alone. -/
def execDestroy (slot : SlotId) (s : State) : Host.Outcome State Fault Refusal :=
  command s (some slot) []
    ((if (s.slot slot).present then s.setSlot slot Slot.zero else s).succeed (some slot) 0 0)

end Sys2Proof.Machine
end

