-- ==== Sys2Proof/Machine/Modes.lean ====
section
/-! DEFINITION. The modes of operation (43_modes.md R180 to R201). A mode reaches the cipher only through the
resource-checked calls. -/

namespace Sys2Proof.Machine

/-! ### Pre-checks (R180)

`R_REQ` is 0 before check (h) (log entry 9). -/

/-- Checks (3) and (4) of 41_key_object.md R130 and (a), (b) of R180, for a command that will write `nOut` bytes.
Input and output must not be null with a length (R66), and an output that is required, since `nOut` is not 0, must not be null with
length 0 either (R252; log entry 32). -/
def modeChecks (s : State) (k : SlotId) (nOut : Nat) : List Check :=
  [ absentCheck s k,
    ⟨s.buf0.missing || s.buf1.missing || (decide (0 < nOut) && decide (s.buf1.addr = 0)), .error .nullOrMissingArgument 0⟩,
    unboundCheck s k,
    unkeyedCheck s k ]

/-- Check (d): the input is not block-aligned. -/
def alignedCheck (len bs : Nat) : Check := ⟨decide (len % bs ≠ 0), .error .wrongBlockCipherLength 0⟩

/-- Check (e) for CBC: the IV is missing or not exactly one block (R188). -/
def cbcIvCheck (iv : Buffer) (bs : Nat) : Check :=
  ⟨decide (iv.addr = 0) || decide (iv.len ≠ bs), .error .wrongIvLength 0⟩

/-- Check (e) for CTR: the IV is missing or longer than one block (R191). -/
def ctrIvCheck (iv : Buffer) (bs : Nat) : Check :=
  ⟨decide (iv.addr = 0) || decide (iv.len = 0) || decide (bs < iv.len), .error .wrongIvLength 0⟩

/-- Check (h): `M > 0` and the counter is 0; `M` is known here (R181). -/
def resourceCheck (s : State) (k : SlotId) (m : Nat) : Check :=
  ⟨decide (0 < m) && decide ((s.slot k).resourceCounter = 0), .error .lowKeyResource m⟩

/-! ### Number of blocks (R181) -/

/-- `M` of `CTR_ACPKM`: the data blocks and `J` more for each rekey. -/
def acpkmBlocks (nblk section_ derivation : Nat) : Nat :=
  if nblk = 0 then 0 else nblk + derivation * ((nblk - 1) / section_)

/-- `M` of `CMAC`: the subkey block and at least one more. -/
def cmacBlocks (len bs : Nat) : Nat := 1 + max 1 (ceilDiv len bs)

/-! ### ECB (R186, R187) -/

/-- One block of ECB: read, call, write. -/
def ecbBody (dir : Direction) (k : SlotId) (src dst bs i : Nat) (j : Job) : Except Job Job :=
  match blockCall dir k (j.st.load (src + i * bs) bs) j with
  | .error j' => .error j'
  | .ok (j', c) => .ok ⟨j'.st.store (dst + i * bs) bs c, j'.done⟩

/-- The shared shape of `ECB_ENC` and `ECB_DEC`. -/
def ecbCommand (dir : Direction) (k : SlotId) (s : State) : Host.Outcome State Fault Refusal :=
  let input := s.buf0
  let output := s.buf1
  let bs := (s.slot k).bs
  let m := input.len / bs
  command s (some k)
    (modeChecks s k input.len ++ [alignedCheck input.len bs] ++
     contractChecks s.par.memSize [input, output]
       (decide (output.len < input.len) || decide (output.len % bs ≠ 0))
       (partialOverlap output.addr input.len input) ++
     [resourceCheck s k m])
    (finishJob k m (blocksLoop (ecbBody dir k input.addr output.addr bs) m 0 ⟨s, 0⟩))

/-- `ECB_ENC k<s>, in=(P0,P1), out=(P2,P3)` (R186). -/
def execEcbEnc (slot : SlotId) (s : State) : Host.Outcome State Fault Refusal := ecbCommand .encrypt slot s

/-- `ECB_DEC` (R187). -/
def execEcbDec (slot : SlotId) (s : State) : Host.Outcome State Fault Refusal := ecbCommand .decrypt slot s

/-! ### CBC (R188 to R190) -/

/-- One block of CBC encryption (R189). -/
def cbcEncBody (k : SlotId) (src dst bs i : Nat) (j : Job) : Except Job Job :=
  let p := j.st.load (src + i * bs) bs
  match blockCall .encrypt k (xorBytes p ((j.st.slot k).chain bs)) j with
  | .error j' => .error j'
  | .ok (j', c) =>
    .ok ⟨(j'.st.setSlot k ((j'.st.slot k).setChain (c.take bs))).store (dst + i * bs) bs c, j'.done⟩

/-- One block of CBC decryption (R190): the ciphertext is read before the plaintext is written. -/
def cbcDecBody (k : SlotId) (src dst bs i : Nat) (j : Job) : Except Job Job :=
  let c := j.st.load (src + i * bs) bs
  match blockCall .decrypt k c j with
  | .error j' => .error j'
  | .ok (j', d) =>
    .ok ⟨(j'.st.setSlot k ((j'.st.slot k).setChain c)).store (dst + i * bs) bs
      (xorBytes d ((j.st.slot k).chain bs)), j'.done⟩

/-- The state with a block loaded into the slot's IV buffer. -/
def State.loadIv (s : State) (k : SlotId) (b : List Byte) : State := s.setSlot k ((s.slot k).loadIv b)

/-- The shared shape of `CBC_ENC` and `CBC_DEC`. -/
def cbcCommand (body : SlotId → Nat → Nat → Nat → Nat → Job → Except Job Job) (k : SlotId) (s : State) :
    Host.Outcome State Fault Refusal :=
  let input := s.buf0
  let output := s.buf1
  let iv := s.buf2
  let bs := (s.slot k).bs
  let m := input.len / bs
  command s (some k)
    (modeChecks s k input.len ++ [alignedCheck input.len bs, cbcIvCheck iv bs] ++
     contractChecks s.par.memSize [input, output, iv]
       (decide (output.len < input.len) || decide (output.len % bs ≠ 0))
       (partialOverlap output.addr input.len input || ivOverlap output.addr input.len iv) ++
     [resourceCheck s k m])
    (finishJob k m
      (blocksLoop (body k input.addr output.addr bs) m 0 ⟨s.loadIv k (s.load iv.addr bs), 0⟩))

/-- `CBC_ENC k<s>, in, out, iv=(P4,P5)` (R189). -/
def execCbcEnc (slot : SlotId) (s : State) : Host.Outcome State Fault Refusal := cbcCommand cbcEncBody slot s

/-- `CBC_DEC` (R190). -/
def execCbcDec (slot : SlotId) (s : State) : Host.Outcome State Fault Refusal := cbcCommand cbcDecBody slot s

/-! ### CTR and CTR_ACPKM (R191 to R196) -/

/-- Add 1 to a number held least significant byte first, modulo its width. -/
def incLittle : List Byte → List Byte
  | [] => []
  | x :: xs => if x + 1 = 0 then 0 :: incLittle xs else (x + 1) :: xs

/-- `inc(b)`: the block as a big-endian number plus 1, modulo `2^(8*bs)` (R193). -/
def incBlock (b : List Byte) : List Byte := (incLittle b.reverse).reverse

/-- The first counter block: the IV followed by zero bytes (R192). -/
def firstCounter (s : State) (iv : Buffer) (bs : Nat) : List Byte :=
  s.load iv.addr iv.len ++ List.replicate (bs - iv.len) 0

/-- One block of CTR (R194); the last one may be partial. -/
def ctrBody (k : SlotId) (src dst len bs i : Nat) (j : Job) : Except Job Job :=
  let n := min bs (len - i * bs)
  let x := j.st.load (src + i * bs) n
  let counter := (j.st.slot k).chain bs
  match blockCall .encrypt k counter j with
  | .error j' => .error j'
  | .ok (j', g) =>
    .ok ⟨(j'.st.setSlot k ((j'.st.slot k).setChain (incBlock counter))).store (dst + i * bs) n
      (xorBytes x g), j'.done⟩

/-- One block of CTR_ACPKM: before block `i > 0` with `i mod section = 0` the next key is derived (R196). -/
def acpkmBody (section_ : Nat) (k : SlotId) (src dst len bs i : Nat) (j : Job) : Except Job Job :=
  match (if 0 < i ∧ i % section_ = 0 then deriveNext k j else .ok j) with
  | .error j' => .error j'
  | .ok j' => ctrBody k src dst len bs i j'

/-- The shared shape of `CTR` and `CTR_ACPKM`: `extra` is check (c), `m` the number of blocks needed. -/
def ctrCommand (body : SlotId → Nat → Nat → Nat → Nat → Nat → Job → Except Job Job) (extra : List Check)
    (m : Nat) (k : SlotId) (s : State) : Host.Outcome State Fault Refusal :=
  let input := s.buf0
  let output := s.buf1
  let iv := s.buf2
  let bs := (s.slot k).bs
  command s (some k)
    (modeChecks s k input.len ++ extra ++ [ctrIvCheck iv bs] ++
     contractChecks s.par.memSize [input, output, iv] (decide (output.len < input.len))
       (partialOverlap output.addr input.len input || ivOverlap output.addr input.len iv) ++
     [resourceCheck s k m])
    (finishJob k m
      (blocksLoop (body k input.addr output.addr input.len bs) (ceilDiv input.len bs) 0
        ⟨s.loadIv k (firstCounter s iv bs), 0⟩))

/-- `CTR k<s>, in, out, iv` (R194). -/
def execCtr (slot : SlotId) (s : State) : Host.Outcome State Fault Refusal :=
  ctrCommand ctrBody [] (ceilDiv s.buf0.len (s.slot slot).bs) slot s

/-- `CTR_ACPKM k<s>, in, out, iv, section=P6` (R196). -/
def execCtrAcpkm (slot : SlotId) (s : State) : Host.Outcome State Fault Refusal :=
  ctrCommand (acpkmBody s.extra) [⟨decide (s.extra = 0), .error .zeroLength 0⟩]
    (acpkmBlocks (ceilDiv s.buf0.len (s.slot slot).bs) s.extra (s.slot slot).derivationBlocks) slot s

/-! ### CMAC (R198 to R201) -/

/-- The reduction constant `Rb` (R198). -/
def reductionByte (bs : Nat) : Byte := if bs = 16 then 0x87 else 0x1B

/-- A block shifted left by one bit, bit 7 of the next byte coming in (R200). -/
def shiftBlock : List Byte → List Byte
  | [] => []
  | x :: xs => ((x <<< 1) ||| (xs.headD 0 >>> 7)) :: shiftBlock xs

/-- XOR a byte into the last byte of a block. -/
def xorLast (b : List Byte) (r : Byte) : List Byte :=
  match b.reverse with
  | [] => []
  | x :: xs => ((x ^^^ r) :: xs).reverse

/-- `dbl(b)`: doubling in GF(2^(8*bs)), the block read big-endian (R200). -/
def doubleBlock (bs : Nat) (b : List Byte) : List Byte :=
  if (b.headD 0).getLsbD 7 then xorLast (shiftBlock b) (reductionByte bs) else shiftBlock b

/-- `pad(x) = x ‖ 0x80 ‖ 0^(bs - r - 1)` (R199). -/
def padBlock (bs : Nat) (x : List Byte) : List Byte := x ++ 0x80 :: List.replicate (bs - x.length - 1) 0

/-- `chain <- E(s, chain ^ block i)` for `n` blocks from `i` on. -/
def cmacChain (k : SlotId) (src bs : Nat) : Nat → Nat → List Byte → Job → Except Job (Job × List Byte)
  | 0, _, chain, j => .ok (j, chain)
  | n + 1, i, chain, j =>
    match blockCall .encrypt k (xorBytes chain (j.st.load (src + i * bs) bs)) j with
    | .error j' => .error j'
    | .ok (j', c) => cmacChain k src bs n (i + 1) c j'

/-- The last block with the subkey that its length asks for: a full block takes `K1`, a padded one `K2`. -/
def cmacLast (bs : Nat) (k1 k2 last : List Byte) : List Byte :=
  if last.length = bs then xorBytes last k1 else xorBytes (padBlock bs last) k2

/-- The block work of `CMAC` (R201). -/
def cmacJob (k : SlotId) (src len dst tagLen bs : Nat) (j : Job) : Except Job Job :=
  match blockCall .encrypt k (List.replicate bs 0) j with
  | .error j' => .error j'
  | .ok (j1, l) =>
    let k1 := doubleBlock bs l
    let k2 := doubleBlock bs k1
    let n := max 1 (ceilDiv len bs)
    match cmacChain k src bs (n - 1) 0 (List.replicate bs 0) j1 with
    | .error j' => .error j'
    | .ok (j2, chain) =>
      let last := j2.st.load (src + (n - 1) * bs) (len - (n - 1) * bs)
      match blockCall .encrypt k (xorBytes chain (cmacLast bs k1 k2 last)) j2 with
      | .error j' => .error j'
      | .ok (j3, tag) => .ok ⟨j3.st.store dst tagLen tag, j3.done⟩

/-- `CMAC k<s>, in=(P0,P1), out=(P2,P3), tag=P6` (R201). -/
def execCmac (slot : SlotId) (s : State) : Host.Outcome State Fault Refusal :=
  let input := s.buf0
  let output := s.buf1
  let tagLen := s.extra
  let bs := (s.slot slot).bs
  let m := cmacBlocks input.len bs
  command s (some slot)
    (modeChecks s slot tagLen ++
     [ ⟨decide (tagLen = 0), .error .zeroLength 0⟩,
       ⟨decide (bs < tagLen), .error .wrongBlockCipherFunction 0⟩ ] ++
     contractChecks s.par.memSize [input, output] (decide (output.len < tagLen))
       (partialOverlap output.addr tagLen input) ++
     [resourceCheck s slot m])
    (finishJob slot m (cmacJob slot input.addr input.len output.addr tagLen bs ⟨s, 0⟩))

end Sys2Proof.Machine
end

