-- ==== Sys2Proof/Machine/TableBuilder.lean ====
section
/-! DEFINITION. The table-builder commands (40_table_builder.md R106, R107, R111, R112, R114, R117, R118). On every error and
fault `TBL` and memory are unchanged; `R_DONE`, `R_REQ` and `R_LEFT` are 0 (R107). -/

namespace Sys2Proof.Machine

/-- Steps (3) to (5) of R107 for a command that reads one buffer and writes 256 bytes: null arguments, the command's own
length errors, the contract (R106). -/
def builderChecks (s : State) (lengthErrors : List Check) : List Check :=
  [ ⟨s.buf0.missing || decide (s.buf1.addr = 0), .error .nullOrMissingArgument 0⟩ ] ++ lengthErrors ++
  contractChecks s.par.memSize [s.buf0, s.buf1] (decide (s.buf1.len < 256)) (partialOverlap s.buf1.addr 256 s.buf0)

/-- `GEN_MATRIX taps=(P0,P1), out=(P2,P3)` (R111). -/
def execGenMatrix (s : State) : Host.Outcome State Fault Refusal :=
  command s none (builderChecks s [⟨decide (s.buf0.len ≠ 16), .error .invalidParameter 0⟩])
    ((s.store s.buf1.addr 256
      (generateMatrix s.par.profile.poly (Vec16.ofList (s.load s.buf0.addr 16))).toBytes).succeed none 0 0)

/-- `INV_MATRIX in=(P0,P1), out=(P2,P3)` (R112). -/
def execInvMatrix (s : State) : Host.Outcome State Fault Refusal :=
  command s none
    (builderChecks s
      [ ⟨decide (s.buf0.len = 0), .error .zeroLength 0⟩,
        ⟨decide (s.buf0.len ≠ 256), .error .invalidParameter 0⟩ ])
    (match invertMatrix s.par.profile.poly (Matrix16.ofList (s.load s.buf0.addr 256)) with
     | none => s.raise none .notInvertible 0 0
     | some b => (s.store s.buf1.addr 256 b.toBytes).succeed none 0 0)

/-- `INV_PERM in=(P0,P1), out=(P2,P3)` (R114). -/
def execInvPerm (s : State) : Host.Outcome State Fault Refusal :=
  command s none
    (builderChecks s
      [ ⟨decide (s.buf0.len = 0), .error .zeroLength 0⟩,
        ⟨decide (s.buf0.len ≠ 256), .error .notAPermutation 0⟩ ])
    (match invertPermutation (ByteTable.ofList (s.load s.buf0.addr 256)) with
     | none => s.raise none .notAPermutation 0 0
     | some inv => (s.store s.buf1.addr 256 inv.toList).succeed none 0 0)

/-- The table set that a matrix and a permutation give, with their inverses (R116, R117). -/
def tableSet (poly : BitVec 9) (m minv : Matrix16) (t tinv : ByteTable) : TableSet where
  valid := true
  mat := m
  matInv := minv
  perm := t
  permInv := tinv
  fwd := roundTable poly m t
  bwd := roundTable poly minv tinv

/-- `INIT_TABLES` and `INIT_DEFAULT` from "Minv <- ..." on: one atomic replacement of `TBL`, or an error that leaves it as it
was; the matrix is tried first (R117). -/
def State.installTables (s : State) (m : Matrix16) (t : ByteTable) : State :=
  match invertMatrix s.par.profile.poly m with
  | none => s.raise none .notInvertible 0 0
  | some minv =>
    match invertPermutation t with
    | none => s.raise none .notAPermutation 0 0
    | some tinv => { s with tbl := tableSet s.par.profile.poly m minv t tinv }.succeed none 0 0

/-- `INIT_TABLES mat=(P0,P1), perm=(P2,P3)` (R117): both buffers are inputs. -/
def execInitTables (s : State) : Host.Outcome State Fault Refusal :=
  command s none
    ([ ⟨s.buf0.missing || s.buf1.missing, .error .nullOrMissingArgument 0⟩,
       ⟨decide (s.buf0.len = 0) || decide (s.buf1.len = 0), .error .zeroLength 0⟩,
       ⟨decide (s.buf0.len ≠ 256), .error .invalidParameter 0⟩,
       ⟨decide (s.buf1.len ≠ 256), .error .notAPermutation 0⟩ ] ++
     contractChecks s.par.memSize [s.buf0, s.buf1] false false)
    (s.installTables (Matrix16.ofList (s.load s.buf0.addr 256)) (ByteTable.ofList (s.load s.buf1.addr 256)))

/-- The linear source and the permutation of a variant, where the profile has both (R118). -/
def variantTables (prf : Profile) : Variant → Option (LinSource × ByteTable)
  | .standard => some (prf.linStd, prf.permStd)
  | .compat =>
    match prf.linCompat, prf.permCompat with
    | some l, some t => some (l, t)
    | _, _ => none

/-- `INIT_DEFAULT STANDARD|COMPAT` (R118): reads no memory and no operand register. -/
def execInitDefault (variant : Variant) (s : State) : Host.Outcome State Fault Refusal :=
  command s none []
    (match variantTables s.par.profile variant with
     | none => s.raise none .invalidParameter 0 0
     | some (l, t) => s.installTables (matrixOf s.par.profile.poly l) t)

end Sys2Proof.Machine
end

