-- ==== Sys2Proof/Machine/Dispatch.lean ====
section
/-! DEFINITION. One arm per constructor of Instr: the meaning of every instruction. -/

namespace Sys2Proof.Machine

def exec (i : Instr) (s : State) : Host.Outcome State Fault Refusal :=
  match i with
  | .genMatrix => Sys2Proof.Machine.execGenMatrix s
  | .invMatrix => Sys2Proof.Machine.execInvMatrix s
  | .invPerm => Sys2Proof.Machine.execInvPerm s
  | .initTables => Sys2Proof.Machine.execInitTables s
  | .initDefault variant => Sys2Proof.Machine.execInitDefault variant s
  | .create slot blockSize => Sys2Proof.Machine.execCreate slot blockSize s
  | .bind slot kind => Sys2Proof.Machine.execBind slot kind s
  | .setKey slot => Sys2Proof.Machine.execSetKey slot s
  | .setKeyRandom slot keyLen => Sys2Proof.Machine.execSetKeyRandom slot keyLen s
  | .deriveNext slot => Sys2Proof.Machine.execDeriveNext slot s
  | .destroy slot => Sys2Proof.Machine.execDestroy slot s
  | .ecbEnc slot => Sys2Proof.Machine.execEcbEnc slot s
  | .ecbDec slot => Sys2Proof.Machine.execEcbDec slot s
  | .cbcEnc slot => Sys2Proof.Machine.execCbcEnc slot s
  | .cbcDec slot => Sys2Proof.Machine.execCbcDec slot s
  | .ctr slot => Sys2Proof.Machine.execCtr slot s
  | .ctrAcpkm slot => Sys2Proof.Machine.execCtrAcpkm slot s
  | .cmac slot => Sys2Proof.Machine.execCmac slot s
  | .encryptBlock => Sys2Proof.Machine.execEncryptBlock s
  | .decryptBlock => Sys2Proof.Machine.execDecryptBlock s
  | .scheduleKeys => Sys2Proof.Machine.execScheduleKeys s
  | .eraseKeys => Sys2Proof.Machine.execEraseKeys s
  | .addRoundKey => Sys2Proof.Machine.execAddRoundKey s
  | .subBytes => Sys2Proof.Machine.execSubBytes s
  | .linear => Sys2Proof.Machine.execLinear s
  | .linearLast => Sys2Proof.Machine.execLinearLast s
  | .invSubBytes => Sys2Proof.Machine.execInvSubBytes s
  | .invLinear => Sys2Proof.Machine.execInvLinear s
  | .invLinearLast => Sys2Proof.Machine.execInvLinearLast s
  | .roundT => Sys2Proof.Machine.execRoundT s
  | .invRoundT => Sys2Proof.Machine.execInvRoundT s
  | .shiftRows => Sys2Proof.Machine.execShiftRows s
  | .mixColumns => Sys2Proof.Machine.execMixColumns s
  | .invShiftRows => Sys2Proof.Machine.execInvShiftRows s
  | .invMixColumns => Sys2Proof.Machine.execInvMixColumns s
  | .lfsrStep => Sys2Proof.Machine.execLfsrStep s

end Sys2Proof.Machine
end

