-- ==== Sys2Proof/Machine/Issue.lean ====
section
/-! DEFINITION. What each event does: the host's register and memory writes, the issue of a code, the load of the operand
latches, and reset (10_state.md R21, R22; 60_exceptions.md R276; 70_reset_and_hazards.md R280). -/

namespace Sys2Proof.Machine

/-- The host writes operand register `i` (R21). -/
def State.hostWriteP (s : State) (i : Fin 8) (v : Word) : State := { s with p := s.p.set i.val v i.isLt }

/-- The host writes bytes of memory; an address outside memory does not exist (20_memory.md R60; log entry
12). -/
def hostWriteMem (addr : Word) (bytes : List Byte) (s : State) : Host.Outcome State Fault Refusal :=
  if s.par.memSize < addr.toNat + bytes.length then .fault .noSuchAddress
  else .next (s.store addr.toNat bytes.length bytes)

/-- The host writes `CMD`, which starts the command it encodes; `CMD` holds the word (R22). An illegal word ends at once
(30_encoding.md R90). -/
def issueCommand (w : BitVec 32) (s : State) : Host.Outcome State Fault Refusal :=
  match decode (.command w) with
  | .ok i => exec i { s with cmd := w }
  | .error _ => .next ({ s with cmd := w }).endInvalid

/-- The sequencer issues an internal code (30_encoding.md R86; log entries 13 and 23). -/
def issueInternal (c : Code) (s : State) : Host.Outcome State Fault Refusal :=
  match decode c with
  | .ok i => exec i s
  | .error _ => .refused .unassignedMicro

/-- A code is issued. -/
def issue (c : Code) (s : State) : Host.Outcome State Fault Refusal :=
  match c with
  | .command w => issueCommand w s
  | .entry e => issueInternal (.entry e) s
  | .micro e => issueInternal (.micro e) s

/-- Reset (R280): the state of `State.reset`, with the contents of memory and of the table arrays that the event brings
(R282), `valid = 0`. The parameters, the random source's call number and what the host does next are not reset
(log entry 19). -/
def State.afterReset (s : State) (cells : List Host.Cell) (tables : TableSet) : State :=
  { State.reset with
    mem := Memory.ofCells s.par.memSize cells
    tbl := { tables with valid := false }
    par := s.par
    draws := s.draws
    agenda := s.agenda }

/-- One event on a state. -/
def runEvent (e : Event) (s : State) : Host.Outcome State Fault Refusal :=
  match e with
  | .writeP i v => .next (s.hostWriteP i v)
  | .writeMem addr bytes => hostWriteMem addr bytes s
  | .issue c => issue c s
  | .latch q => .next { s with seq := q }
  | .reset cells tables => .next (s.afterReset cells tables)

/-- The next event is taken off the agenda and run. With none the machine idles: it has no halt state (60_exceptions.md
R276). -/
def nextEvent (s : State) : Host.Outcome State Fault Refusal :=
  match s.agenda with
  | [] => .next s
  | e :: rest => runEvent e { s with agenda := rest }

/-- The state whose next event issues the instruction that the opcode table numbers as `w`, `nbits` long. -/
def State.placeTableWord (s : State) (nbits w : Nat) : State :=
  { s with agenda := .issue (tableCode nbits w) :: s.agenda }

end Sys2Proof.Machine
end

