-- ==== Sys2Proof/Machine/Step.lean ====
section
/-! DEFINITION. One step of the machine: the next event of the agenda. -/

namespace Sys2Proof.Machine

/-- One step: a command is one step, start to end (00_scope.md R12). -/
def step (s : State) : Host.Outcome State Fault Refusal := nextEvent s

/-- The state with an instruction placed where `step` takes its next one: at the head of the agenda. -/
def State.withFetchWord (s : State) (nbits w : Nat) : State := s.placeTableWord nbits w

end Sys2Proof.Machine
end

