-- ==== Sys2Proof/Safety.lean ====
section
/-! DEFINITION. The terms in which statements about the machine are written: well-formed parameters, the invariants of slots,
tables and memory (10_state.md R31, R41), when a command passes its checks (R107, R130, R180), and what its result is read
against. Nothing here is used by the step. -/

namespace Sys2Proof

/-! ### Which slot and which range of memory an instruction names -/

/-- The slot a host command names (30_encoding.md R85). -/
def Instr.namedSlot : Instr → Option SlotId
  | .create k _ | .bind k _ | .setKey k | .setKeyRandom k _ | .deriveNext k | .destroy k => some k
  | .ecbEnc k | .ecbDec k | .cbcEnc k | .cbcDec k | .ctr k | .ctrAcpkm k | .cmac k => some k
  | .genMatrix | .invMatrix | .invPerm | .initTables | .initDefault _ => none
  | .encryptBlock | .decryptBlock | .scheduleKeys | .eraseKeys => none
  | .addRoundKey | .subBytes | .linear | .linearLast | .invSubBytes | .invLinear | .invLinearLast => none
  | .roundT | .invRoundT | .shiftRows | .mixColumns | .invShiftRows | .invMixColumns | .lfsrStep => none

/-- The mode commands (43_modes.md), with their slot. -/
def Instr.modeSlot : Instr → Option SlotId
  | .ecbEnc k | .ecbDec k | .cbcEnc k | .cbcDec k | .ctr k | .ctrAcpkm k | .cmac k => some k
  | .create _ _ | .bind _ _ | .setKey _ | .setKeyRandom _ _ | .deriveNext _ | .destroy _ => none
  | .genMatrix | .invMatrix | .invPerm | .initTables | .initDefault _ => none
  | .encryptBlock | .decryptBlock | .scheduleKeys | .eraseKeys => none
  | .addRoundKey | .subBytes | .linear | .linearLast | .invSubBytes | .invLinear | .invLinearLast => none
  | .roundT | .invRoundT | .shiftRows | .mixColumns | .invShiftRows | .invMixColumns | .lfsrStep => none

/-- The two commands that write `TBL` (10_state.md R42). -/
def Instr.initsTables : Instr → Bool
  | .initTables | .initDefault _ => true
  | .genMatrix | .invMatrix | .invPerm => false
  | .create _ _ | .bind _ _ | .setKey _ | .setKeyRandom _ _ | .deriveNext _ | .destroy _ => false
  | .ecbEnc _ | .ecbDec _ | .cbcEnc _ | .cbcDec _ | .ctr _ | .ctrAcpkm _ | .cmac _ => false
  | .encryptBlock | .decryptBlock | .scheduleKeys | .eraseKeys => false
  | .addRoundKey | .subBytes | .linear | .linearLast | .invSubBytes | .invLinear | .invLinearLast => false
  | .roundT | .invRoundT | .shiftRows | .mixColumns | .invShiftRows | .invMixColumns | .lfsrStep => false

/-! ### The opcode map's illegal words, in the words of 30_encoding.md R90 -/

/-- The 18 values of `op`. -/
def hostOps : List (BitVec 8) :=
  [0x01, 0x02, 0x03, 0x04, 0x05, 0x10, 0x11, 0x12, 0x13, 0x14, 0x15, 0x20, 0x21, 0x22, 0x23, 0x24, 0x25, 0x26]

/-- `op` is not one of the 18 values; or a must-be-zero field is set; or `sel` is out of the range of `INIT_DEFAULT` or of
`BIND` (R90). -/
abbrev IllegalWord (w : BitVec 32) : Prop :=
  fieldOp w ∉ hostOps ∨
  (∃ r ∈ hostRows, fieldOp w = fieldOp r.pattern ∧ w &&& r.mask ≠ r.pattern) ∨
  (fieldOp w = 0x05 ∧ 1 < (fieldSel w).toNat) ∨
  (fieldOp w = 0x11 ∧ (fieldSel w = 0 ∨ 3 < (fieldSel w).toNat))

/-! ### Numbers -/

/-- `be(b)`: a byte string as a big-endian number (00_scope.md R10). -/
def be (b : List Byte) : Nat := b.foldl (fun n x => n * 256 + x.toNat) 0

/-! ### The field, matrices and permutations (00_scope.md R8) -/

/-- The product of two binary polynomials, given as numbers, without reduction; the first has degree at most 4. -/
def clmul (a b : Nat) : Nat := (List.range 5).foldl (fun acc i => if a.testBit i then acc ^^^ (b <<< i) else acc) 0

/-- `poly` has degree 8 and is irreducible over GF(2): it is no product of a factor of degree `d`, 1 to 4, and one of degree `8 - d`
(log entry 28). -/
abbrev PolyOk (poly : BitVec 9) : Prop :=
  poly.getLsbD 8 = true ∧
    ∀ d ∈ [1, 2, 3, 4], ∀ x ∈ List.range (2 ^ d), ∀ y ∈ List.range (2 ^ (8 - d)),
      clmul (2 ^ d + x) (2 ^ (8 - d) + y) ≠ poly.toNat

/-- `b` is the inverse of `m` on both sides (40_table_builder.md R113). -/
abbrev MatInverse (poly : BitVec 9) (m b : Matrix16) : Prop :=
  matMul poly b m = identity16 ∧ matMul poly m b = identity16

/-- `m` is invertible, that is not singular. -/
def Invertible (poly : BitVec 9) (m : Matrix16) : Prop := ∃ b, MatInverse poly m b

/-- Every value 0..255 is hit exactly once (40_table_builder.md R114). -/
def Permutation (t : ByteTable) : Prop := ∀ y : Byte, ∃ x : Byte, lookup t x = y ∧ ∀ x' : Byte, lookup t x' = y → x' = x

namespace Machine

/-- `pi` is a permutation of 0..15, where the profile has one (R8). -/
abbrev LastLinOk (prf : Profile) : Prop :=
  match prf.lastLin with
  | .same => True
  | .bytePerm pi => ∀ i j : Fin 16, pi[i] = pi[j] → i = j

/-- `expand` is total on the accepted key lengths (92_eei_decisions.md, the constraint on `profile`): the expansion's own rule
gives it for each of them, with that number of rounds (44_profile_aes.md R217, 45_profile_gost.md R236). -/
abbrev ExpandTotal (prf : Profile) : Prop :=
  ∀ z ∈ prf.keySizes,
    (prf.expand = .aes → (z.len = 16 ∨ z.len = 24 ∨ z.len = 32) ∧ z.rounds = z.len / 4 + 6) ∧
    (prf.expand = .gost → z.len = 32 ∧ z.rounds = 9)

/-- `WF(profile)`, row by row of 00_scope.md R8, and `expand` total (log entry 28). That no length stands twice makes `Nr` a
function of the length. -/
structure WfProfile (prf : Profile) : Prop where
  /-- `poly` -/
  poly : PolyOk prf.poly
  /-- `lin_std` -/
  linStd : Invertible prf.poly (matrixOf prf.poly prf.linStd)
  /-- `lin_compat` -/
  linCompat : ∀ l, prf.linCompat = some l → Invertible prf.poly (matrixOf prf.poly l)
  /-- `perm_std` -/
  permStd : Permutation prf.permStd
  /-- `perm_compat` -/
  permCompat : ∀ t, prf.permCompat = some t → Permutation t
  /-- `last_lin` -/
  lastLin : LastLinOk prf
  /-- `key_lengths` is not empty -/
  someLength : prf.keySizes ≠ []
  /-- `key_lengths` is a set -/
  lengthsApart : (prf.keySizes.map fun z => z.len).Nodup
  /-- every member of `key_lengths` and its `Nr` -/
  sizes : ∀ z ∈ prf.keySizes, z.len ≤ 32 ∧ 1 ≤ z.rounds ∧ z.rounds ≤ 14
  /-- `key_len_default` -/
  lenDefault : ∃ z ∈ prf.keySizes, z.len = prf.keyLenDefault
  /-- `expand` -/
  expand : ExpandTotal prf

/-- The parameters of R7 are as R7, R8 and 10_state.md R30 ask: `profile` is well formed, and the key of an `alg8` that is present
fits `key`. `MEM_SIZE` and `resource_max` are in range by their types. -/
structure WfParams (par : Params) : Prop where
  profile : WfProfile par.profile
  alg8 : ∀ a, par.alg8 = some a → ∀ n ∈ a.keyLengths, n ≤ 32

/-- Every accepted key length is a number of bytes that `key` can hold (R8; for `B8`, 10_state.md R30). -/
abbrev KeySizesOk (par : Params) : Prop :=
  (∀ n ∈ keyLengths par .b16t, n ≤ 32) ∧ (∀ n ∈ keyLengths par .b8, n ≤ 32)

/-! ### The invariants -/

/-- The table invariant of 10_state.md R41; both products of the matrix and its inverse (40_table_builder.md R113). -/
def TableSet.Consistent (poly : BitVec 9) (tbl : TableSet) : Prop :=
  (∀ x : Byte, lookup tbl.permInv (lookup tbl.perm x) = x) ∧
  (∀ y : Byte, lookup tbl.perm (lookup tbl.permInv y) = y) ∧
  MatInverse poly tbl.mat tbl.matInv ∧
  (∀ (j : Fin 16) (x : Byte),
    lookup tbl.fwd[j] x = matApply poly tbl.mat (scaleVec poly (lookup tbl.perm x) (unitVec j))) ∧
  (∀ (j : Fin 16) (x : Byte),
    lookup tbl.bwd[j] x = matApply poly tbl.matInv (scaleVec poly (lookup tbl.permInv x) (unitVec j)))

/-- R41: the field polynomial is good, and the table set is consistent whenever it is valid. -/
def State.TablesOk (s : State) : Prop :=
  PolyOk s.par.profile.poly ∧ (s.tbl.valid = true → s.tbl.Consistent s.par.profile.poly)

/-- Memory is in canonical form and lists only addresses that exist (20_memory.md R60). -/
abbrev State.MemOk (s : State) : Prop := Memory.wf s.mem = true ∧ ∀ c ∈ s.mem, c.1 < s.par.memSize

/-- A bound slot's block size is that of its algorithm (10_state.md R31 (b)). -/
abbrev Slot.Shape (sl : Slot) : Prop :=
  (sl.kind = .b8 ∧ sl.blockSize = 8) ∨ ((sl.kind = .b16t ∨ sl.kind = .b16p) ∧ sl.blockSize = 16)

/-- R31 (a) to (f). In (e) the round keys are those that scheduling the key gives under some table set, the one that was
current when the key was installed. -/
def Slot.Ok (par : Params) (sl : Slot) : Prop :=
  if sl.present = true then
    (sl.blockSize = 8 ∨ sl.blockSize = 16) ∧
    (sl.kind = .unbound ∨ sl.Shape) ∧
    (sl.ivLength.toNat % sl.bs = 0 ∧ sl.ivLength.toNat ≤ 64) ∧
    (sl.keySet = true →
      sl.kind ≠ .unbound ∧ acceptsKeyLen par sl.kind sl.keyLen.toNat = true ∧
      ∃ tbl, Slot.scheduleKeys par tbl sl = sl) ∧
    (sl.keySet = false →
      sl.keyLen = 0 ∧ sl.key = Vector.replicate 32 0 ∧ sl.nrk = 0 ∧ sl.rk = RoundKeys.zero)
  else sl = Slot.zero

/-- An event that is none of the sequencer's: a host's register or memory write, a command word, reset. -/
def Event.byHost : Event → Bool
  | .writeP _ _ | .writeMem _ _ | .issue (.command _) | .reset _ _ => true
  | .issue (.entry _) | .issue (.micro _) | .latch _ => false

/-- R31 for every slot, on a machine that is driven by the host alone. -/
def State.SlotsOk (s : State) : Prop :=
  KeySizesOk s.par ∧ s.agenda.all Event.byHost = true ∧ ∀ k : SlotId, (s.slot k).Ok s.par

/-! ### Buffers (20_memory.md R66, R67, R69) -/

/-- The buffer is not a missing argument. -/
abbrev Buffer.Present (b : Buffer) : Prop := b.len = 0 ∨ b.addr ≠ 0

/-- The buffer lies in memory. -/
abbrev Buffer.InRange (size : Nat) (b : Buffer) : Prop := b.len = 0 ∨ b.addr + b.len ≤ size

/-- No byte of `n` at `dst` is a byte of the buffer. -/
abbrev Buffer.Apart (dst n : Nat) (b : Buffer) : Prop := n = 0 ∨ b.len = 0 ∨ dst + n ≤ b.addr ∨ b.addr + b.len ≤ dst

/-- The bytes written start exactly at the buffer or are apart from it. -/
abbrev Buffer.AliasOrApart (dst n : Nat) (b : Buffer) : Prop := dst = b.addr ∨ b.Apart dst n

/-! ### How a command ends before its effect -/

/-- The verdict of a command's checks. -/
inductive Verdict where
  /-- the error with this code and this `R_REQ` -/
  | error (code req : Nat)
  /-- the contract fault with this cause -/
  | fault (cause : Nat)
  /-- no meaning -/
  | refuse (r : Refusal)
  /-- every check passes -/
  | go
  deriving DecidableEq, Repr

/-- How a command with this verdict ends: an error writes the result registers and nothing else (60_exceptions.md R256); a
fault writes `FAULT`, `FAULT_CAUSE` and `RES` and nothing else (R262). `k` is the slot it names. -/
def Verdict.Ends (v : Verdict) (s : State) (k : Option SlotId) (o : Host.Outcome State Fault Refusal) : Prop :=
  match v with
  | .error code req =>
    o = .next
      { s with
        res := BitVec.ofNat 32 code
        rDone := 0
        rReq := BitVec.ofNat 32 req
        rLeft := match k with
          | some k => if (s.slot k).present = true then (s.slot k).resourceCounter else 0
          | none => 0
        seq := Sequencer.zero }
  | .fault cause =>
    o = .next { s with fault := true, faultCause := BitVec.ofNat 8 cause, res := 0xFE }
  | .refuse r => o = .refused r
  | .go => ∃ t, o = .next t ∧ t.fault = false

/-- The contract checks in the order of their codes (60_exceptions.md R263), or `rest` where none fails. -/
def contractVerdict (size : Nat) (buffers : List Buffer) (enough apart : Bool) (rest : Verdict) : Verdict :=
  if ¬ ∀ b ∈ buffers, b.InRange size then .fault 1
  else if enough = false then .fault 2
  else if apart = false then .fault 3
  else rest

/-- The number of bytes a command may write at `P2` (20_memory.md R69); 0 for one that writes no memory. -/
def outBytes (i : Instr) (s : State) : Nat :=
  match i with
  | .ecbEnc _ | .ecbDec _ | .cbcEnc _ | .cbcDec _ | .ctr _ | .ctrAcpkm _ => s.buf0.len
  | .cmac _ => s.extra
  | .genMatrix | .invMatrix | .invPerm => 256
  | _ => 0

/-- `M`, the number of blocks a mode command needs (43_modes.md R181). -/
def blocksNeeded (i : Instr) (s : State) : Nat :=
  let len := s.buf0.len
  match i with
  | .ecbEnc k | .ecbDec k | .cbcEnc k | .cbcDec k => len / (s.slot k).bs
  | .ctr k => ceilDiv len (s.slot k).bs
  | .ctrAcpkm k =>
    let nblk := ceilDiv len (s.slot k).bs
    if 1 ≤ nblk then nblk + ceilDiv (s.slot k).keyLen.toNat (s.slot k).bs * ((nblk - 1) / s.extra) else 0
  | .cmac k => 1 + max 1 (ceilDiv len (s.slot k).bs)
  | _ => 0

/-- Step (c) of R180: a zero section or tag length. -/
def zeroLength (i : Instr) (s : State) : Bool :=
  match i with
  | .ctrAcpkm _ | .cmac _ => s.extra == 0
  | _ => false

/-- Step (d): the input is not a whole number of blocks. -/
def unaligned (i : Instr) (s : State) : Bool :=
  match i with
  | .ecbEnc k | .ecbDec k | .cbcEnc k | .cbcDec k => s.buf0.len % (s.slot k).bs != 0
  | _ => false

/-- Step (e): the IV is missing or has a wrong length. -/
def badIv (i : Instr) (s : State) : Bool :=
  match i with
  | .cbcEnc k | .cbcDec k => s.buf2.addr == 0 || s.buf2.len != (s.slot k).bs
  | .ctr k | .ctrAcpkm k => s.buf2.addr == 0 || s.buf2.len == 0 || decide (s.buf2.len > (s.slot k).bs)
  | _ => false

/-- Step (f): the tag is longer than a block. -/
def badTag (i : Instr) (s : State) : Bool :=
  match i with
  | .cmac k => decide (s.extra > (s.slot k).bs)
  | _ => false

/-- The buffers a mode command has: input, output, and the IV where it takes one. -/
def modeBuffers (i : Instr) (s : State) : List Buffer :=
  match i with
  | .cbcEnc _ | .cbcDec _ | .ctr _ | .ctrAcpkm _ => [s.buf0, s.buf1, s.buf2]
  | _ => [s.buf0, s.buf1]

/-- The output is long enough (43_modes.md R182). -/
def longEnough (i : Instr) (s : State) : Bool :=
  match i with
  | .ecbEnc k | .ecbDec k | .cbcEnc k | .cbcDec k =>
    decide (s.buf0.len ≤ s.buf1.len) && s.buf1.len % (s.slot k).bs == 0
  | .ctr _ | .ctrAcpkm _ => decide (s.buf0.len ≤ s.buf1.len)
  | .cmac _ => decide (s.extra ≤ s.buf1.len)
  | _ => true

/-- The bytes written are apart from the input or exactly alias it, and are apart from the IV (20_memory.md R69). -/
def wellPlaced (i : Instr) (s : State) : Bool :=
  decide (s.buf0.AliasOrApart s.buf1.addr (outBytes i s)) &&
  match i with
  | .cbcEnc _ | .cbcDec _ | .ctr _ | .ctrAcpkm _ => decide (s.buf2.Apart s.buf1.addr (outBytes i s))
  | _ => true

/-- The pre-checks of a mode command on slot `k`, in the order of 41_key_object.md R130 (3), (4) and 43_modes.md R180 (a) to
(h). -/
def modeVerdict (i : Instr) (k : SlotId) (s : State) : Verdict :=
  if (s.slot k).present = false then .error 1 0
  else if ¬ s.buf0.Present ∨ ¬ s.buf1.Present ∨ (0 < outBytes i s ∧ s.buf1.addr = 0) then .error 1 0
  else if (s.slot k).kind = .unbound then .error 6 0
  else if (s.slot k).keySet = false then .error 9 0
  else if zeroLength i s = true then .error 2 0
  else if unaligned i s = true then .error 4 0
  else if badIv i s = true then .error 5 0
  else if badTag i s = true then .error 7 0
  else
    contractVerdict s.par.memSize (modeBuffers i s) (longEnough i s) (wellPlaced i s)
      (if 0 < blocksNeeded i s ∧ (s.slot k).resourceCounter = 0 then .error 8 (blocksNeeded i s) else .go)

/-- The length error of a builder command that reads `(P0, P1)` and writes 256 bytes at `P2`, or `rest` (40_table_builder.md
R111, R112, R114). -/
def builderLength (i : Instr) (s : State) (rest : Verdict) : Verdict :=
  match i with
  | .genMatrix => if s.buf0.len ≠ 16 then .error 12 0 else rest
  | .invMatrix => if s.buf0.len = 0 then .error 2 0 else if s.buf0.len ≠ 256 then .error 12 0 else rest
  | .invPerm => if s.buf0.len = 0 then .error 2 0 else if s.buf0.len ≠ 256 then .error 11 0 else rest
  | _ => rest

/-- The checks of a builder command before its computation, in the order of 40_table_builder.md R107. -/
def builderVerdict (i : Instr) (s : State) : Verdict :=
  match i with
  | .initTables =>
    if ¬ s.buf0.Present ∨ ¬ s.buf1.Present then .error 1 0
    else if s.buf0.len = 0 ∨ s.buf1.len = 0 then .error 2 0
    else if s.buf0.len ≠ 256 then .error 12 0
    else if s.buf1.len ≠ 256 then .error 11 0
    else contractVerdict s.par.memSize [s.buf0, s.buf1] true true .go
  | .initDefault variant => if variantTables s.par.profile variant = none then .error 12 0 else .go
  | _ =>
    if ¬ s.buf0.Present ∨ s.buf1.addr = 0 then .error 1 0
    else
      builderLength i s
        (contractVerdict s.par.memSize [s.buf0, s.buf1] (decide (256 ≤ s.buf1.len))
          (decide (s.buf0.AliasOrApart s.buf1.addr 256)) .go)

/-- An accepted key length of a kind; zero is none (41_key_object.md R133, R139). -/
abbrev AcceptedKeyLen (par : Params) (kind : Kind) (n : Nat) : Prop := n ≠ 0 ∧ n ∈ keyLengths par kind

/-- The checks of a key command on slot `k`, in the order its rule lists them (41_key_object.md R130 to R138). -/
def keyVerdict (i : Instr) (k : SlotId) (s : State) : Verdict :=
  let sl := s.slot k
  match i with
  | .create _ blockSize =>
    if sl.present = true then .error 12 0
    else if blockSize ≠ 8 ∧ blockSize ≠ 16 then .error 12 0
    else .go
  | .bind _ kind =>
    if sl.present = false then .error 1 0
    else if sl.kind ≠ .unbound then .error 6 0
    else if (kind = .b8 ∧ sl.blockSize ≠ 8) ∨ (kind ≠ .b8 ∧ sl.blockSize ≠ 16) then .error 6 0
    else if kind = .b8 ∧ s.par.alg8 = none then .refuse .alg8Absent
    else if kind ≠ .b8 ∧ s.tbl.valid = false then .error 6 0
    else .go
  | .setKey _ =>
    if sl.present = false then .error 1 0
    else if ¬ s.buf0.Present then .error 1 0
    else if sl.kind = .unbound then .error 6 0
    else if ¬ AcceptedKeyLen s.par sl.kind s.buf0.len then .error 3 0
    else contractVerdict s.par.memSize [s.buf0] true true .go
  | .setKeyRandom _ keyLen =>
    if sl.present = false then .error 1 0
    else if sl.kind = .unbound then .error 6 0
    else if ¬ AcceptedKeyLen s.par sl.kind (if keyLen ≠ 0 then keyLen else defaultKeyLen s.par sl.kind) then .error 3 0
    else .go
  | .deriveNext _ =>
    if sl.present = false then .error 1 0
    else if sl.kind = .unbound then .error 6 0
    else if sl.keySet = false then .error 9 0
    else if sl.resourceCounter.toNat < ceilDiv sl.keyLen.toNat sl.bs then
      .error 8 (ceilDiv sl.keyLen.toNat sl.bs)
    else .go
  | _ => .go

/-! ### What a result is read against -/

/-- The byte at an address of the state's memory. -/
abbrev State.byte (s : State) (a : Nat) : Byte := Memory.read s.mem a

/-- `iv_buffer` holding a block, zero beyond it (43_modes.md R189, R194). -/
def ivField (b : List Byte) : Vector Byte 64 := Vector.ofFn fun i => b.getD i.val 0

/-- The slot after a mode command that has made `n` block calls and left `chain` in `iv_buffer`. -/
def Slot.after (sl : Slot) (n : Nat) (chain : List Byte) : Slot :=
  { sl with
    resourceCounter := sl.resourceCounter - BitVec.ofNat 64 n
    ivBuffer := ivField chain
    ivLength := sl.blockSize }

/-- The state after a command on slot `k` that succeeded with `n` block calls and left `sl` in the slot: memory is `m`, every
other field is that of `s` (43_modes.md R185). -/
def State.done (s : State) (k : SlotId) (sl : Slot) (m : List Host.Cell) (n : Nat) : State :=
  { s with
    slots := s.slots.set k.val sl k.isLt
    mem := m
    res := 0
    rDone := BitVec.ofNat 32 n
    rReq := BitVec.ofNat 32 n
    rLeft := sl.resourceCounter
    seq := Sequencer.zero }

/-- The state after a command on slot `k` that needed `m` block calls and ended with `LowKeyResource` after `n` of them: as `done`
but for the code and `R_REQ` (43_modes.md R184). -/
def State.runsOut (s : State) (k : SlotId) (sl : Slot) (mem : List Host.Cell) (n m : Nat) : State :=
  { s.done k sl mem n with res := 8, rReq := BitVec.ofNat 32 m }

/-- The block calls `CTR_ACPKM` has made before block `n`, the derivations up to and with the one before block `n` included: one for
each block and `J` for each derivation (43_modes.md R181, R196). -/
def State.acpkmCalls (s : State) (k : SlotId) (n : Nat) : Nat :=
  n + ceilDiv (s.slot k).keyLen.toNat (s.slot k).bs * (n / s.extra)

/-- A slot's block encryption without the resource check. -/
def State.encrypts (s : State) (k : SlotId) (b : List Byte) : List Byte := encryptBlock s.par s.tbl (s.slot k) b

/-- A slot's block decryption without the resource check. -/
def State.decrypts (s : State) (k : SlotId) (b : List Byte) : List Byte := decryptBlock s.par s.tbl (s.slot k) b

/-- The slot is present, bound in its proper shape, keyed, and no fault is set. -/
abbrev State.Keyed (s : State) (k : SlotId) : Prop :=
  s.fault = false ∧ (s.slot k).present = true ∧ (s.slot k).Shape ∧ (s.slot k).keySet = true

/-- The substitution as a function of a byte. -/
abbrev TableSet.sub (tbl : TableSet) (x : Byte) : Byte := lookup tbl.perm x

/-- The inverse substitution as a function of a byte. -/
abbrev TableSet.subInv (tbl : TableSet) (x : Byte) : Byte := lookup tbl.permInv x

/-- Lane `m` of the last layer on `v`: `full`, that of a full layer, with `last_lin = SAME`, else the substituted byte at `pi[m]`
(R154). -/
def lastLane (prf : Profile) (tbl : TableSet) (v : Vec16) (m : Fin 16) (full : Byte) : Byte :=
  match prf.lastLin with
  | .same => full
  | .bytePerm pi => tbl.sub v[pi[m]]

/-- `w` is the encryption of `b` of kind `B16P` with `Nr = nr`, lane by lane: `v 0` is the block under `rk[0]`, `v i` the vector after
round `i`, and the last layer and `rk[Nr]` follow `v (Nr - 1)` (42_cipher_core.md R150, R155, with the lanes of R151 to R154). -/
def PlainEncryption (prf : Profile) (tbl : TableSet) (rk : RoundKeys) (nr : Fin 15) (b w : Vec16) : Prop :=
  ∃ v : Nat → Vec16,
    (∀ m : Fin 16, (v 0)[m] = b[m] ^^^ (rk[0])[m]) ∧
    (∀ i : Fin 15, 0 < i.val → i.val < nr.val → ∀ m : Fin 16,
      (v i.val)[m] = (xorSum fun j => gfMul prf.poly (tbl.mat[m])[j] (tbl.sub (v (i.val - 1))[j])) ^^^ (rk[i])[m]) ∧
    ∀ m : Fin 16, w[m] =
      lastLane prf tbl (v (nr.val - 1)) m
        (xorSum fun j => gfMul prf.poly (tbl.mat[m])[j] (tbl.sub (v (nr.val - 1))[j])) ^^^ (rk[nr])[m]

/-- `w` is the decryption of `b` of kind `B16P`: `v i` is the vector that round `i` leaves, `i = Nr` downto 1 (R156, with the lanes of
R164 to R166). -/
def PlainDecryption (prf : Profile) (tbl : TableSet) (rk : RoundKeys) (nr : Fin 15) (b w : Vec16) : Prop :=
  ∃ v : Nat → Vec16,
    (match prf.lastLin with
      | .same => ∀ m : Fin 16, (v nr.val)[m] =
          tbl.subInv (xorSum fun j => gfMul prf.poly (tbl.matInv[m])[j] (b[j] ^^^ (rk[nr])[j]))
      | .bytePerm pi => ∀ m : Fin 16, (v nr.val)[pi[m]] = tbl.subInv (b[m] ^^^ (rk[nr])[m])) ∧
    (∀ i : Fin 15, 0 < i.val → i.val < nr.val → ∀ m : Fin 16,
      (v i.val)[m] =
        tbl.subInv (xorSum fun j => gfMul prf.poly (tbl.matInv[m])[j] ((v (i.val + 1))[j] ^^^ (rk[i])[j]))) ∧
    ∀ m : Fin 16, w[m] = (v 1)[m] ^^^ (rk[0])[m]

/-- `w` is the encryption of `b` of kind `B16T`: as `PlainEncryption`, each full layer from the round tables (R157, R167). -/
def TabledEncryption (prf : Profile) (tbl : TableSet) (rk : RoundKeys) (nr : Fin 15) (b w : Vec16) : Prop :=
  ∃ v : Nat → Vec16,
    (∀ m : Fin 16, (v 0)[m] = b[m] ^^^ (rk[0])[m]) ∧
    (∀ i : Fin 15, 0 < i.val → i.val < nr.val → ∀ m : Fin 16,
      (v i.val)[m] = (xorSum fun j => (lookup tbl.fwd[j] (v (i.val - 1))[j])[m]) ^^^ (rk[i])[m]) ∧
    ∀ m : Fin 16, w[m] =
      lastLane prf tbl (v (nr.val - 1)) m (xorSum fun j => (lookup tbl.fwd[j] (v (nr.val - 1))[j])[m]) ^^^ (rk[nr])[m]

/-- `w` is the decryption of `b` of kind `B16T`: `v Nr` is the inverse last layer, `v i` for `i = Nr - 1` downto 1 the inverse table
round under the transformed key, and the inverse substitution and `rk[0]` follow `v 1` (R158, R168). -/
def TabledDecryption (prf : Profile) (tbl : TableSet) (rk : RoundKeys) (nr : Fin 15) (b w : Vec16) : Prop :=
  ∃ v : Nat → Vec16,
    (match prf.lastLin with
      | .same => ∀ m : Fin 16, (v nr.val)[m] =
          xorSum fun j => gfMul prf.poly (tbl.matInv[m])[j] (b[j] ^^^ (rk[nr])[j])
      | .bytePerm pi => ∀ m : Fin 16, (v nr.val)[pi[m]] = b[m] ^^^ (rk[nr])[m]) ∧
    (∀ i : Fin 15, 0 < i.val → i.val < nr.val → ∀ m : Fin 16,
      (v i.val)[m] =
        (xorSum fun j => (lookup tbl.bwd[j] (v (i.val + 1))[j])[m]) ^^^
          (xorSum fun j => gfMul prf.poly (tbl.matInv[m])[j] (rk[i])[j])) ∧
    ∀ m : Fin 16, w[m] = tbl.subInv (v 1)[m] ^^^ (rk[0])[m]

/-- Every pre-check of a mode command passes, and the counter suffices for all its blocks. -/
abbrev ModeReady (i : Instr) (k : SlotId) (s : State) : Prop :=
  s.Keyed k ∧ modeVerdict i k s = .go ∧ blocksNeeded i s ≤ (s.slot k).resourceCounter.toNat

/-- Block `n` of a range of memory, `bs` bytes (20_memory.md R64). -/
abbrev State.block (s : State) (addr bs n : Nat) : List Byte := s.load (addr + n * bs) bs

/-- Counter block `n` of `CTR` and `CTR_ACPKM` (43_modes.md R192, R193). -/
def State.counterBlock (s : State) (bs n : Nat) : List Byte :=
  incBlock^[n] (s.load s.buf2.addr s.buf2.len ++ List.replicate (bs - s.buf2.len) 0)

/-- The key that `derive_next` makes of a slot: the leading bytes of the encrypted constant blocks (41_key_object.md R137). -/
def nextKey (par : Params) (tbl : TableSet) (sl : Slot) : List Byte :=
  ((List.range (ceilDiv sl.keyLen.toNat sl.bs)).flatMap fun j =>
    encryptBlock par tbl sl ((par.profile.acpkmD.toList.drop (j * sl.bs)).take sl.bs)).take sl.keyLen.toNat

/-- The slot with its next key installed; its counter and its IV are untouched (R136, R137). -/
def nextKeySlot (par : Params) (tbl : TableSet) (sl : Slot) : Slot :=
  { Slot.scheduleKeys par tbl
      { sl with
        key := keyField (nextKey par tbl sl)
        keyTag := Config.icode (nextKey par tbl sl) } with keySet := true }

/-- The chain of CMAC over a message of `n + 1` blocks (43_modes.md R201): the last one whole, or padded with a byte `0x80` and then
zero bytes up to the block's length (R199). -/
def cmacFold (e : List Byte → List Byte) (bs : Nat) (k1 k2 : List Byte) : Nat → List Byte → List Byte → List Byte
  | 0, chain, x =>
    e (xorBytes chain
      (if x.length = bs then xorBytes x k1
        else xorBytes (x ++ [0x80] ++ List.replicate (bs - x.length - 1) 0) k2))
  | n + 1, chain, x => cmacFold e bs k1 k2 n (e (xorBytes chain (x.take bs))) (x.drop bs)

/-- The full tag of a message (R201): the subkeys are doublings of the encrypted zero block. -/
def cmacTag (e : List Byte → List Byte) (bs : Nat) (msg : List Byte) : List Byte :=
  let k1 := doubleBlock bs (e (List.replicate bs 0))
  cmacFold e bs k1 (doubleBlock bs k1) (max 1 (ceilDiv msg.length bs) - 1) (List.replicate bs 0) msg

/-- Byte `b` of word `i` of an expanded key, four words to a round key (44_profile_aes.md R217). -/
def expandedByte (ks : List Vec16) (i b : Nat) : Byte := (ks.getD (i / 4) Vec16.zero).toList.getD (4 * (i % 4) + b) 0

/-- `M_AES^-1` as 44_profile_aes.md R220 prints it. -/
def matrixAesInv : Matrix16 :=
  Matrix16.ofList
    ([0x0e, 0x0b, 0x0d, 0x09, 0, 0, 0, 0, 0, 0, 0, 0, 0, 0, 0, 0] ++
    [0, 0, 0, 0, 0, 0, 0, 0, 0, 0, 0, 0, 0x09, 0x0e, 0x0b, 0x0d] ++
    [0, 0, 0, 0, 0, 0, 0, 0, 0x0d, 0x09, 0x0e, 0x0b, 0, 0, 0, 0] ++
    [0, 0, 0, 0, 0x0b, 0x0d, 0x09, 0x0e, 0, 0, 0, 0, 0, 0, 0, 0] ++
    [0, 0, 0, 0, 0x0e, 0x0b, 0x0d, 0x09, 0, 0, 0, 0, 0, 0, 0, 0] ++
    [0x09, 0x0e, 0x0b, 0x0d, 0, 0, 0, 0, 0, 0, 0, 0, 0, 0, 0, 0] ++
    [0, 0, 0, 0, 0, 0, 0, 0, 0, 0, 0, 0, 0x0d, 0x09, 0x0e, 0x0b] ++
    [0, 0, 0, 0, 0, 0, 0, 0, 0x0b, 0x0d, 0x09, 0x0e, 0, 0, 0, 0] ++
    [0, 0, 0, 0, 0, 0, 0, 0, 0x0e, 0x0b, 0x0d, 0x09, 0, 0, 0, 0] ++
    [0, 0, 0, 0, 0x09, 0x0e, 0x0b, 0x0d, 0, 0, 0, 0, 0, 0, 0, 0] ++
    [0x0d, 0x09, 0x0e, 0x0b, 0, 0, 0, 0, 0, 0, 0, 0, 0, 0, 0, 0] ++
    [0, 0, 0, 0, 0, 0, 0, 0, 0, 0, 0, 0, 0x0b, 0x0d, 0x09, 0x0e] ++
    [0, 0, 0, 0, 0, 0, 0, 0, 0, 0, 0, 0, 0x0e, 0x0b, 0x0d, 0x09] ++
    [0, 0, 0, 0, 0, 0, 0, 0, 0x09, 0x0e, 0x0b, 0x0d, 0, 0, 0, 0] ++
    [0, 0, 0, 0, 0x0d, 0x09, 0x0e, 0x0b, 0, 0, 0, 0, 0, 0, 0, 0] ++
    [0x0b, 0x0d, 0x09, 0x0e, 0, 0, 0, 0, 0, 0, 0, 0, 0, 0, 0, 0])

/-- An outcome with the table set of its next state replaced. -/
def withTables (tables : TableSet) : Host.Outcome State Fault Refusal → Host.Outcome State Fault Refusal
  | .next t => .next { t with tbl := tables }
  | .fault r => .fault r
  | .refused r => .refused r

/-! ### What no command shows (10_state.md R32, R34) -/

/-- A slot with the fields erased that no command lets the host observe: `key`, `key_tag`, `iv_buffer`, `iv_length`. -/
def Slot.visible (sl : Slot) : Slot :=
  { sl with key := Vector.replicate 32 0, keyTag := 0, ivBuffer := Vector.replicate 64 0, ivLength := 0 }

/-- The state with those fields of every slot erased. -/
def State.visible (s : State) : State := { s with slots := Vector.ofFn fun k : SlotId => (s.slot k).visible }

/-- An outcome with those fields erased. -/
def visibleOutcome : Host.Outcome State Fault Refusal → Host.Outcome State Fault Refusal
  | .next t => .next t.visible
  | .fault r => .fault r
  | .refused r => .refused r

end Machine
end Sys2Proof
end

