-- ==== Sys2Proof/Certificates/Slice0/Obligations.lean ====
section
/-! DEFINITION. The statements for the provers, each one about every state or every operand of the model; the docstring names the
rules of spec/ it formalises. -/

open Sys2Proof Sys2Proof.Machine

/-! ### Encoding -/

/-- Decoding the code of a well-formed instruction gives it back, for all 36 constructors and every operand (30_encoding.md R81,
R85, R86). -/
def Obligations.DecodeEncode : Prop :=
  ∀ i : Instr, i.wellFormed = true → decode (encode i) = .ok i

/-- Decoding is exact: every code that decodes is the one code of its instruction, which is well formed, so that no bit of a code
is ignored (R81, R83, R90); the words that decode are exactly those that the match, mask and `sel` columns of the opcode map
select; and no two rows of the map select one word (R81, R85). -/
def Obligations.DecoderIsExact : Prop :=
  (∀ (c : Code) (i : Instr), decode c = .ok i → encode i = c ∧ i.wellFormed = true) ∧
  (∀ w : BitVec 32, (∃ i, decode (.command w) = .ok i) ↔ legalWord w = true) ∧
  ∀ w : BitVec 32, ∀ r ∈ hostRows, ∀ r' ∈ hostRows,
    w &&& r.mask = r.pattern → w &&& r'.mask = r'.pattern → r = r'

/-- Which words are illegal, and that one ends at once with `InvalidCommand`, `R_DONE = R_REQ = 0`, and changes no other state
(`CMD` holds the word the host wrote) (R90, R22). That `R_DONE` and `R_REQ` become 0, by R90
against U17 and V71, and that `R_LEFT` keeps its value, by R90 against R23, is the model's reading (log entry 8). -/
def Obligations.IllegalWordEnds : Prop :=
  (∀ w : BitVec 32, IllegalWord w ↔ ∀ i, decode (.command w) ≠ .ok i) ∧
  ∀ (s : State) (w : BitVec 32) (rest : List Event),
    s.agenda = .issue (.command w) :: rest → s.fault = false → IllegalWord w →
    step s = .next { s with agenda := rest, cmd := w, res := 0xFF, rDone := 0, rReq := 0 }

/-- Words written out from the fields of R81 and the codes of R85 and R86, at least one of each family, and illegal ones. -/
def Obligations.SampleWordsDecode : Prop :=
  decode (.command 0x00000001) = .ok .genMatrix ∧
  decode (.command 0x00001005) = .ok (.initDefault .compat) ∧
  decode (.command 0x00100310) = .ok (.create 3 16) ∧
  decode (.command 0x00002311) = .ok (.bind 3 .b16t) ∧
  decode (.command 0x00200313) = .ok (.setKeyRandom 3 32) ∧
  decode (.command 0x00000F26) = .ok (.cmac 15) ∧
  decode (.command 0x00000222) = .ok (.cbcEnc 2) ∧
  decode (.entry 2) = .ok .scheduleKeys ∧
  decode (.micro 0xD) = .ok .lfsrStep ∧
  decode (.command 0x00000000) = .error .illegalOp ∧
  decode (.command 0x00000311) = .error .badSelector ∧
  decode (.command 0x00010312) = .error .reservedFieldSet

/-! ### The step -/

/-- A step issues the next code of the agenda: it is `exec` of the decoded instruction, on the state with `CMD` holding the
word (R22) or unchanged for an internal code (R86). With nothing to do the machine idles (R276; log entry 7). -/
def Obligations.StepRunsDecodedInstruction : Prop :=
  (∀ (s : State) (w : BitVec 32) (i : Instr) (rest : List Event),
    s.agenda = .issue (.command w) :: rest → decode (.command w) = .ok i →
    step s = exec i { s with agenda := rest, cmd := w }) ∧
  (∀ (s : State) (c : BitVec 2) (i : Instr) (rest : List Event),
    s.agenda = .issue (.entry c) :: rest → decode (.entry c) = .ok i →
    step s = exec i { s with agenda := rest }) ∧
  (∀ (s : State) (c : BitVec 4) (i : Instr) (rest : List Event),
    s.agenda = .issue (.micro c) :: rest → decode (.micro c) = .ok i →
    step s = exec i { s with agenda := rest }) ∧
  (∀ s : State, s.agenda = [] → step s = .next s)

/-- Between commands the host writes an operand register, and no other changes (R21), or bytes of memory, and no other byte
changes (R60, R63, R276); a write at an address that does not exist stops the model (log entry 12). -/
def Obligations.HostWrites : Prop :=
  (∀ (s : State) (i : Fin 8) (v : Word) (rest : List Event), s.agenda = .writeP i v :: rest →
    ∃ t, step s = .next t ∧ t = { s with agenda := rest, p := t.p } ∧
      ∀ j : Fin 8, t.p[j] = if j = i then v else s.p[j]) ∧
  (∀ (s : State) (addr : Word) (bytes : List Byte) (rest : List Event),
    s.agenda = .writeMem addr bytes :: rest → addr.toNat + bytes.length ≤ s.par.memSize →
    ∃ t, step s = .next t ∧ t = { s with agenda := rest, mem := t.mem } ∧
      ∀ a, t.byte a =
        if addr.toNat ≤ a ∧ a < addr.toNat + bytes.length then bytes.getD (a - addr.toNat) 0 else s.byte a) ∧
  (∀ (s : State) (addr : Word) (bytes : List Byte) (rest : List Event),
    s.agenda = .writeMem addr bytes :: rest → s.par.memSize < addr.toNat + bytes.length →
    step s = .fault .noSuchAddress)

/-- Reset gives every register and every slot field 0 and clears `FAULT` and `TBL.valid`, and nothing else clears `FAULT` (R45,
R280, R282). That the event brings the contents of the table arrays and of memory, which can be any, and that the parameters
and the agenda are kept, is the model's choice (log entry 19). -/
def Obligations.ResetEvent : Prop :=
  (∀ (s : State) (cells : List Host.Cell) (tables : TableSet) (rest : List Event),
    s.agenda = .reset cells tables :: rest →
    ∃ t, step s = .next t ∧
      (∀ i : Fin 8, t.p[i] = 0) ∧ t.cmd = 0 ∧ t.res = 0 ∧ t.rDone = 0 ∧ t.rReq = 0 ∧ t.rLeft = 0 ∧
      t.fault = false ∧ t.faultCause = 0 ∧ (∀ k : SlotId, t.slot k = Slot.zero) ∧
      t.tbl = { tables with valid := false } ∧ t.par = s.par ∧ t.agenda = rest ∧
      (Memory.wf cells = true → (∀ c ∈ cells, c.1 < s.par.memSize) → t.mem = cells)) ∧
  (∀ s t : State, (∀ cells tables, s.agenda.head? ≠ some (.reset cells tables)) → s.fault = true →
    step s = .next t → t.fault = true)

/-- `State.reset` has the values R45 states, and meets every invariant of the model; its parameters are well formed, and
so is `PROFILE_GOST` (R7, R8, R210, R230). What it holds beyond R45 (parameters, table arrays, memory, latches) is the model's
choice (log entries 1 to 5), and so is the form of the conditions of R8 (log entry 28). -/
def Obligations.ResetState : Prop :=
  ((∀ i : Fin 8, State.reset.p[i] = 0) ∧ State.reset.cmd = 0 ∧ State.reset.res = 0 ∧ State.reset.rDone = 0 ∧
    State.reset.rReq = 0 ∧ State.reset.rLeft = 0 ∧ State.reset.fault = false ∧ State.reset.faultCause = 0 ∧
    (∀ k : SlotId, State.reset.slot k = Slot.zero) ∧ State.reset.tbl.valid = false) ∧
  (State.reset.MemOk ∧ State.reset.SlotsOk ∧ State.reset.TablesOk) ∧
  State.reset.par.profile = profileAes ∧ WfParams State.reset.par ∧ WfProfile profileGost

/-! ### Faults and errors -/

/-- A command that sets `FAULT` changes `FAULT`, `FAULT_CAUSE` and `RES` and nothing else, and the cause is 1, 2 or 3 (R262, R263);
from then on every command, its word legal or not, ends at once with `err = 0xFE` and changes no other state (R25, R130 (1)). -/
def Obligations.FaultEndsEveryCommand : Prop :=
  (∀ (i : Instr) (s t : State), i.hostIssuable = true → s.fault = false → exec i s = .next t → t.fault = true →
    t = { s with fault := true, faultCause := t.faultCause, res := 0xFE } ∧
    (t.faultCause = 1 ∨ t.faultCause = 2 ∨ t.faultCause = 3)) ∧
  (∀ (i : Instr) (s : State), i.hostIssuable = true → s.fault = true → exec i s = .next { s with res := 0xFE }) ∧
  (∀ (s : State) (w : BitVec 32) (rest : List Event),
    s.agenda = .issue (.command w) :: rest → s.fault = true →
    step s = .next { s with agenda := rest, cmd := w, res := 0xFE })

/-- A command that ends with an error other than `LowKeyResource` has changed no slot, no table and no byte of memory: it writes
the result registers, with `K = 0`, `M = 0` and the slot's counter as it was (R130, R107, R256). That `M` is 0 because these errors
are found before it is computed is the model's reading (log entry 9); the draw counter is the model's own (log entry 29). -/
def Obligations.ErrorChangesResultsOnly : Prop :=
  ∀ (i : Instr) (s t : State), i.hostIssuable = true → s.fault = false → exec i s = .next t →
    t.res ≠ 0 → t.res ≠ 8 → t.res ≠ 0xFE →
    t = { s with
          res := t.res
          rDone := 0
          rReq := 0
          rLeft := match i.namedSlot with
            | some k => if (s.slot k).present = true then (s.slot k).resourceCounter else 0
            | none => 0
          draws := t.draws
          seq := Sequencer.zero }

/-- The pre-checks of the seven mode commands, in order, each with its own error, and nothing written until all have passed; when
all pass the command ends with success or `LowKeyResource` (R66, R67, R69, R130, R180, R182, R256, R262). The model's readings in
it: `R_REQ` is 0 before check (h) (log entry 9), which bytes the contract covers (log entries 20 and 21), and that an output
null with a length is a missing argument of every mode command, R66 against R180 (log entry 32). -/
def Obligations.ModePrechecks : Prop :=
  ∀ (i : Instr) (k : SlotId) (s : State), i.modeSlot = some k → s.fault = false →
    (modeVerdict i k s).Ends s (some k) (exec i s) ∧
    (modeVerdict i k s = .go → ∃ t, exec i s = .next t ∧ (t.res = 0 ∨ t.res = 8))

/-- The checks of the five builder commands in the order of R107, and the result registers 0 on every end but a fault (R107, R111,
R112, R114, R117, R118). The contract faults follow R67 and R69; that the whole output operand is checked for range, and when an
alias is exact, are the model's readings (log entries 20 and 21). -/
def Obligations.BuilderChecks : Prop :=
  ∀ (i : Instr) (s : State), i ∈ [.genMatrix, .invMatrix, .invPerm, .initTables, .initDefault .standard,
      .initDefault .compat] → s.fault = false →
    (builderVerdict i s).Ends s none (exec i s) ∧
    ∀ t, exec i s = .next t → t.fault = false → t.rDone = 0 ∧ t.rReq = 0 ∧ t.rLeft = 0

/-- The checks of the six key commands in the order their rules list them, and the refusal of `BIND B8` without `alg8` (R130 to
R138, R9). The default length of kind `B8` is the model's choice (log entry 31), and so is that a default of zero is not accepted
(log entry 18). -/
def Obligations.KeyCommandChecks : Prop :=
  ∀ (i : Instr) (k : SlotId) (s : State), i.namedSlot = some k → i.modeSlot = none → s.fault = false →
    (keyVerdict i k s).Ends s (some k) (exec i s)

/-! ### The field and the matrices -/

/-- R102: the laws of `gf_mul`, for every polynomial of degree 8, and the rule's examples. -/
def Obligations.GfMulLaws : Prop :=
  (∀ poly : BitVec 9, poly.getLsbD 8 = true →
    (∀ a b : Byte, gfMul poly a b = gfMul poly b a) ∧
    (∀ a b c : Byte, gfMul poly (gfMul poly a b) c = gfMul poly a (gfMul poly b c)) ∧
    (∀ a b c : Byte, gfMul poly a (gfAdd b c) = gfAdd (gfMul poly a b) (gfMul poly a c)) ∧
    (∀ a : Byte, gfMul poly a 1 = a) ∧ ∀ a : Byte, gfMul poly a 0 = 0) ∧
  gfMul 0x11B 0x57 0x83 = 0xC1 ∧ gfMul 0x11B 0x57 0x13 = 0xFE ∧ gfMul 0x1C3 0x02 0x80 = 0xC3

/-- R103: for an irreducible polynomial `INVTAB[a]` is the unique inverse of every nonzero `a`, `INVTAB[0]` is the filler 0; and
the rule's examples. -/
def Obligations.GfInverse : Prop :=
  (∀ poly : BitVec 9, PolyOk poly → ∀ a : Byte, a ≠ 0 →
    gfMul poly a (gfInv poly a) = 1 ∧ ∀ y : Byte, gfMul poly a y = 1 → y = gfInv poly a) ∧
  (∀ poly : BitVec 9, PolyOk poly → gfInv poly 0 = 0) ∧
  gfInv 0x11B 0x02 = 0x8D ∧ gfInv 0x11B 0x53 = 0xCA ∧ gfInv 0x1C3 0x02 = 0xE1

/-- R105: what `mat_apply` and `mat_mul` are, that a product applies as the composition, and what `I`, `e_j` and the columns
are. -/
def Obligations.MatrixLaws : Prop :=
  ∀ poly : BitVec 9, poly.getLsbD 8 = true →
    (∀ (m : Matrix16) (v : Vec16) (i : Fin 16),
      (matApply poly m v)[i] = xorSum fun j => gfMul poly (m[i])[j] v[j]) ∧
    (∀ (a b : Matrix16) (i j : Fin 16),
      ((matMul poly a b)[i])[j] = xorSum fun k => gfMul poly (a[i])[k] (b[k])[j]) ∧
    (∀ (a b : Matrix16) (v : Vec16), matApply poly (matMul poly a b) v = matApply poly a (matApply poly b v)) ∧
    (∀ v : Vec16, matApply poly identity16 v = v) ∧
    (∀ (j i : Fin 16), (unitVec j)[i] = if i = j then 1 else 0) ∧
    (∀ (m : Matrix16) (i j : Fin 16), (matApply poly m (unitVec j))[i] = (m[i])[j])

/-- `LFSR_STEP` lane by lane, issued as an operation and as a function, its value at zero, when it is invertible, and the rule's
example (R108). That it is issued alone, on the state in latch `v` and the taps in latch `k`, is the model's choice (log entries 5
and 13). -/
def Obligations.LfsrStepRule : Prop :=
  (∀ s : State, ∃ w : Vec16, exec .lfsrStep s = .next { s with seq := { s.seq with v := w } } ∧
    w = lfsrStep s.par.profile.poly s.seq.v s.seq.k) ∧
  (∀ (poly : BitVec 9) (v t : Vec16),
    (lfsrStep poly v t)[0] = xorSum (fun j => gfMul poly t[j] v[j]) ∧
    ∀ i : Fin 15, (lfsrStep poly v t)[i.succ] = v[i.castSucc]) ∧
  (∀ (poly : BitVec 9) (t : Vec16), lfsrStep poly Vec16.zero t = Vec16.zero) ∧
  (∀ (poly : BitVec 9) (t : Vec16), PolyOk poly →
    (Function.Bijective (fun v : Vec16 => lfsrStep poly v t) ↔ t[15] ≠ 0)) ∧
  lfsrStep 0x1C3 (unitVec 15) tapsGost = unitVec 0

/-- R109: column `j` of `generate_matrix(t)` is the image of `e_j` under 16 steps, and the matrix applied to any vector is the 16
steps applied to it. -/
def Obligations.GenerateMatrixIsSixteenSteps : Prop :=
  ∀ (poly : BitVec 9) (t : Vec16), poly.getLsbD 8 = true →
    (∀ i j : Fin 16, ((generateMatrix poly t)[i])[j] = (lfsrSteps poly t 16 (unitVec j))[i]) ∧
    ∀ v : Vec16, matApply poly (generateMatrix poly t) v = lfsrSteps poly t 16 v

/-- R113: a successful elimination gives the unique two-sided inverse, it fails exactly on singular matrices, and inverting twice
gives the matrix back. -/
def Obligations.InvertMatrixIsInverse : Prop :=
  ∀ (poly : BitVec 9) (m : Matrix16), PolyOk poly →
    (∀ b, invertMatrix poly m = some b →
      MatInverse poly m b ∧ (∀ b', MatInverse poly m b' → b' = b) ∧ invertMatrix poly b = some m) ∧
    (invertMatrix poly m = none ↔ ¬ Invertible poly m)

/-- R115: the inverse of the inverse is the permutation itself, and `S[inv[y]] = y`. -/
def Obligations.InvertPermutationTwice : Prop :=
  ∀ t : ByteTable, Permutation t →
    ∃ inv, invertPermutation t = some inv ∧ invertPermutation inv = some t ∧
      (∀ y : Byte, lookup t (lookup inv y) = y) ∧ ∀ x : Byte, lookup inv (lookup t x) = x

/-! ### The table builder -/

/-- `GEN_MATRIX` past its checks: the matrix of the taps is stored row-major at the output, entry `(i, j)` at offset `16*i + j`, and
nothing else changes but the result registers (R104, R109, R111). -/
def Obligations.GenMatrixResult : Prop :=
  ∀ s : State, s.fault = false → builderVerdict .genMatrix s = .go →
    ∃ t, exec .genMatrix s = .next t ∧
      t = { s with mem := t.mem, res := 0, rDone := 0, rReq := 0, rLeft := 0, seq := Sequencer.zero } ∧
      (∀ i j : Fin 16, t.byte (s.buf1.addr + (16 * i.val + j.val)) =
        (lfsrSteps s.par.profile.poly (Vector.ofFn fun n : Fin 16 => s.byte (s.buf0.addr + n.val)) 16 (unitVec j))[i]) ∧
      ∀ a, (a < s.buf1.addr ∨ s.buf1.addr + 256 ≤ a) → t.byte a = s.byte a

/-- `INV_MATRIX` past its checks: the inverse of the matrix read is stored, or `NotInvertible` ends the command and nothing is
written (R112, R113). -/
def Obligations.InvMatrixResult : Prop :=
  ∀ (s : State) (m : Matrix16), s.fault = false → PolyOk s.par.profile.poly → builderVerdict .invMatrix s = .go →
    (∀ i j : Fin 16, (m[i])[j] = s.byte (s.buf0.addr + (16 * i.val + j.val))) →
    (Invertible s.par.profile.poly m →
      ∃ t b, exec .invMatrix s = .next t ∧ MatInverse s.par.profile.poly m b ∧
        t = { s with mem := t.mem, res := 0, rDone := 0, rReq := 0, rLeft := 0, seq := Sequencer.zero } ∧
        (∀ i j : Fin 16, t.byte (s.buf1.addr + (16 * i.val + j.val)) = (b[i])[j]) ∧
        ∀ a, (a < s.buf1.addr ∨ s.buf1.addr + 256 ≤ a) → t.byte a = s.byte a) ∧
    (¬ Invertible s.par.profile.poly m →
      exec .invMatrix s =
        .next { s with res := 10, rDone := 0, rReq := 0, rLeft := 0, seq := Sequencer.zero })

/-- `INV_PERM` past its checks: the table stored has `inv[S[x]] = x` for every `x`, or `NotAPermutation` ends the command and
nothing is written (R114). -/
def Obligations.InvPermResult : Prop :=
  ∀ (s : State) (p : ByteTable), s.fault = false → builderVerdict .invPerm s = .go →
    (∀ x : Byte, lookup p x = s.byte (s.buf0.addr + x.toNat)) →
    (Permutation p →
      ∃ t, exec .invPerm s = .next t ∧
        t = { s with mem := t.mem, res := 0, rDone := 0, rReq := 0, rLeft := 0, seq := Sequencer.zero } ∧
        (∀ x : Byte, t.byte (s.buf1.addr + (lookup p x).toNat) = x) ∧
        ∀ a, (a < s.buf1.addr ∨ s.buf1.addr + 256 ≤ a) → t.byte a = s.byte a) ∧
    (¬ Permutation p →
      exec .invPerm s = .next { s with res := 11, rDone := 0, rReq := 0, rLeft := 0, seq := Sequencer.zero })

/-- `INIT_TABLES` past its checks: `TBL` is replaced whole by the consistent set of the matrix and the permutation read, whose
round tables are `T[j][x][i] = M[i][j] * S[x]`; otherwise `NotInvertible` is tried before `NotAPermutation` and `TBL` keeps its
value. No memory is written (R116, R117). -/
def Obligations.InitTablesResult : Prop :=
  ∀ (s : State) (m : Matrix16) (p : ByteTable), s.fault = false → PolyOk s.par.profile.poly →
    builderVerdict .initTables s = .go →
    (∀ i j : Fin 16, (m[i])[j] = s.byte (s.buf0.addr + (16 * i.val + j.val))) →
    (∀ x : Byte, lookup p x = s.byte (s.buf1.addr + x.toNat)) →
    (Invertible s.par.profile.poly m → Permutation p →
      ∃ t, exec .initTables s = .next t ∧
        t = { s with tbl := t.tbl, res := 0, rDone := 0, rReq := 0, rLeft := 0, seq := Sequencer.zero } ∧
        t.tbl.valid = true ∧ t.tbl.mat = m ∧ t.tbl.perm = p ∧ t.tbl.Consistent s.par.profile.poly ∧
        ∀ (i j : Fin 16) (x : Byte), (lookup t.tbl.fwd[j] x)[i] = gfMul s.par.profile.poly (m[i])[j] (lookup p x)) ∧
    (¬ Invertible s.par.profile.poly m →
      exec .initTables s =
        .next { s with res := 10, rDone := 0, rReq := 0, rLeft := 0, seq := Sequencer.zero }) ∧
    (Invertible s.par.profile.poly m → ¬ Permutation p →
      exec .initTables s =
        .next { s with res := 11, rDone := 0, rReq := 0, rLeft := 0, seq := Sequencer.zero })

/-- `INIT_DEFAULT`: `TBL` is replaced whole by the consistent set of the variant's matrix and permutation; an absent variant is
`InvalidParameter`, a singular matrix `NotInvertible`, and otherwise a table that is no permutation `NotAPermutation`, each with
`TBL` unchanged; for a well-formed profile the standard variant does not fail. No operand register and no memory is read (R110,
R117, R118). -/
def Obligations.InitDefaultResult : Prop :=
  (∀ (s : State) (variant : Variant) (l : LinSource) (p : ByteTable), s.fault = false → PolyOk s.par.profile.poly →
    variantTables s.par.profile variant = some (l, p) → Invertible s.par.profile.poly (matrixOf s.par.profile.poly l) →
    Permutation p →
    ∃ t, exec (.initDefault variant) s = .next t ∧
      t = { s with tbl := t.tbl, res := 0, rDone := 0, rReq := 0, rLeft := 0, seq := Sequencer.zero } ∧
      t.tbl.valid = true ∧ t.tbl.mat = matrixOf s.par.profile.poly l ∧ t.tbl.perm = p ∧
      t.tbl.Consistent s.par.profile.poly) ∧
  (∀ (s : State) (variant : Variant), s.fault = false → variantTables s.par.profile variant = none →
    exec (.initDefault variant) s =
      .next { s with res := 12, rDone := 0, rReq := 0, rLeft := 0, seq := Sequencer.zero }) ∧
  (∀ (s : State) (variant : Variant) (l : LinSource) (p : ByteTable), s.fault = false → PolyOk s.par.profile.poly →
    variantTables s.par.profile variant = some (l, p) →
    (¬ Invertible s.par.profile.poly (matrixOf s.par.profile.poly l) →
      exec (.initDefault variant) s =
        .next { s with res := 10, rDone := 0, rReq := 0, rLeft := 0, seq := Sequencer.zero }) ∧
    (Invertible s.par.profile.poly (matrixOf s.par.profile.poly l) → ¬ Permutation p →
      exec (.initDefault variant) s =
        .next { s with res := 11, rDone := 0, rReq := 0, rLeft := 0, seq := Sequencer.zero })) ∧
  (∀ s : State, s.fault = false → WfProfile s.par.profile →
    ∃ t, exec (.initDefault .standard) s = .next t ∧ t.res = 0 ∧ t.tbl.valid = true)

/-- R167, R168: the table rounds are sums of table entries, and on a consistent table set they are the linear layer after the
substitution, in both directions. -/
def Obligations.RoundTablesEquivalence : Prop :=
  (∀ (tbl : TableSet) (v : Vec16) (i : Fin 16),
    (roundT tbl v)[i] = xorSum (fun j => (lookup tbl.fwd[j] v[j])[i]) ∧
    (invRoundT tbl v)[i] = xorSum fun j => (lookup tbl.bwd[j] v[j])[i]) ∧
  ∀ (prf : Profile) (tbl : TableSet) (v : Vec16), prf.poly.getLsbD 8 = true → tbl.Consistent prf.poly →
    roundT tbl v = linear prf tbl (subBytes tbl v) ∧ invRoundT tbl v = invLinear prf tbl (invSubBytes tbl v)

/-- R41: whatever the next event is, a step keeps the table set consistent whenever it is valid. -/
def Obligations.TableInvariant : Prop :=
  ∀ s t : State, s.TablesOk → step s = .next t → t.TablesOk

/-! ### The key object -/

/-- `CREATE` past its checks: every field of the slot is 0 but `present` and `block_size`, and `R_LEFT` is 0 (R131). -/
def Obligations.CreateResult : Prop :=
  ∀ (s : State) (k : SlotId) (blockSize : Nat), s.fault = false → keyVerdict (.create k blockSize) k s = .go →
    exec (.create k blockSize) s =
      .next (s.done k { Slot.zero with present := true, blockSize := BitVec.ofNat 8 blockSize } s.mem 0) ∧
    (blockSize = 8 ∨ blockSize = 16)

/-- `BIND` past its checks: the kind is written and nothing else of the slot; a bound slot never binds again (R132). -/
def Obligations.BindResult : Prop :=
  (∀ (s : State) (k : SlotId) (kind : BindKind), s.fault = false → keyVerdict (.bind k kind) k s = .go →
    exec (.bind k kind) s = .next (s.done k { s.slot k with kind := kindOfBind kind } s.mem 0)) ∧
  (∀ (s : State) (k : SlotId) (kind : BindKind), s.fault = false → (s.slot k).present = true →
    (s.slot k).kind ≠ .unbound →
    exec (.bind k kind) s =
      .next { s with res := 6, rDone := 0, rReq := 0, rLeft := (s.slot k).resourceCounter, seq := Sequencer.zero })

/-- `SET_KEY` past its checks: the key read from memory, its length and its tag are in the slot, the round keys are those it
schedules to, the counter is the kind's maximum and the IV is zero (R133, R136). -/
def Obligations.SetKeyResult : Prop :=
  ∀ (s : State) (k : SlotId), s.fault = false → keyVerdict (.setKey k) k s = .go →
    exec (.setKey k) s =
      .next (s.done k
        (Slot.scheduleKeys s.par s.tbl
          { s.slot k with
            keySet := true
            keyLen := BitVec.ofNat 8 s.buf0.len
            key := Vector.ofFn fun i => if i.val < s.buf0.len then s.byte (s.buf0.addr + i.val) else 0
            keyTag := Config.icode (s.load s.buf0.addr s.buf0.len)
            resourceCounter := resourceMax s.par (s.slot k).kind
            ivBuffer := Vector.replicate 64 0
            ivLength := 0 }) s.mem 0)

/-- `SET_KEY_RANDOM` past its checks makes one draw of the immediate's length, or of the kind's default for 0: bytes act as the
key of `SET_KEY`; `Exhausted` ends with `KeyValueUndefined` and leaves the slot as it was (R134, R135, R255). The
default length of kind `B8` is the model's choice (log entry 31), and the draw counter is the model's own (log entries 4 and
29). -/
def Obligations.SetKeyRandomResult : Prop :=
  ∀ (s : State) (k : SlotId) (keyLen n : Nat), s.fault = false → keyVerdict (.setKeyRandom k keyLen) k s = .go →
    n = (if keyLen ≠ 0 then keyLen else defaultKeyLen s.par (s.slot k).kind) →
    exec (.setKeyRandom k keyLen) s =
      .next (match Config.rngFill s.draws n with
        | some b =>
          State.done { s with draws := s.draws + 1 } k
            (Slot.scheduleKeys s.par s.tbl
              { s.slot k with
                keySet := true
                keyLen := BitVec.ofNat 8 n
                key := keyField b.toList
                keyTag := Config.icode b.toList
                resourceCounter := resourceMax s.par (s.slot k).kind
                ivBuffer := Vector.replicate 64 0
                ivLength := 0 }) s.mem 0
        | none =>
          { s with
            draws := s.draws + 1
            res := 9
            rDone := 0
            rReq := 0
            rLeft := (s.slot k).resourceCounter
            seq := Sequencer.zero })

/-- `DERIVE_NEXT` past its checks: the key is the leading bytes of the constant blocks encrypted under the current round keys, the
new round keys are scheduled from it, the counter falls by `J` and is not reloaded, the IV is untouched (R136, R137). -/
def Obligations.DeriveNextResult : Prop :=
  ∀ (s : State) (k : SlotId), s.Keyed k → keyVerdict (.deriveNext k) k s = .go →
    exec (.deriveNext k) s =
      .next (s.done k
        { nextKeySlot s.par s.tbl (s.slot k) with
          resourceCounter := (s.slot k).resourceCounter -
            BitVec.ofNat 64 (ceilDiv (s.slot k).keyLen.toNat (s.slot k).bs) }
        s.mem (ceilDiv (s.slot k).keyLen.toNat (s.slot k).bs)) ∧
    (nextKey s.par s.tbl (s.slot k)).length = (s.slot k).keyLen.toNat

/-- `DESTROY` succeeds from any state without a fault: every bit of the slot is zero, no other slot changes, `R_LEFT` is 0; on an
absent slot it changes no slot, so that a second one is a no-op (R138). -/
def Obligations.DestroyResult : Prop :=
  (∀ (s : State) (k : SlotId), s.fault = false → (s.slot k).present = true →
    exec (.destroy k) s = .next (s.done k Slot.zero s.mem 0)) ∧
  (∀ (s : State) (k : SlotId), s.fault = false → (s.slot k).present = false →
    exec (.destroy k) s = .next { s with res := 0, rDone := 0, rReq := 0, rLeft := 0, seq := Sequencer.zero }) ∧
  (∀ (s t : State) (k : SlotId), s.fault = false → exec (.destroy k) s = .next t → exec (.destroy k) t = .next t)

/-- The two key expansions. AES, word by word: the first `Nk` words are the key, and every later one is the word `Nk` back plus the
word before, rotated, substituted and summed with the round constant at multiples of `Nk`, substituted at 4 mod 8 for `Nk = 8`
(R217). GOST: the first two round keys are the key's halves, and each later pair is the pair before it after eight steps
`F(C_n, (a1, a0)) = (L(S(a1 ^ C_n)) ^ a0, a1)`, `C_n = L(0^15 ‖ byte(n))`, with the constants taken in turn (R236). -/
def Obligations.KeyExpansions : Prop :=
  (∀ (prf : Profile) (tbl : TableSet) (key : List Byte) (nk nr : Nat), (nk = 4 ∨ nk = 6 ∨ nk = 8) → nr = nk + 6 →
    key.length = 4 * nk →
    (expandAes prf tbl key nr).length = nr + 1 ∧
    ∀ i b : Nat, i < 4 * (nr + 1) → b < 4 →
      expandedByte (expandAes prf tbl key nr) i b =
        if i < nk then key.getD (4 * i + b) 0
        else
          expandedByte (expandAes prf tbl key nr) (i - nk) b ^^^
            (if i % nk = 0 then
              tbl.sub (expandedByte (expandAes prf tbl key nr) (i - 1) ((b + 1) % 4)) ^^^
                (if b = 0 then (fun rc => gfMul prf.poly rc 0x02)^[i / nk - 1] 0x01 else 0)
            else if 6 < nk ∧ i % nk = 4 then tbl.sub (expandedByte (expandAes prf tbl key nr) (i - 1) b)
            else expandedByte (expandAes prf tbl key nr) (i - 1) b)) ∧
  (∀ (prf : Profile) (tbl : TableSet) (key : List Byte) (ks : List Vec16), key.length = 32 → ks = expandGost prf tbl key →
    ks.length = 10 ∧
    (∀ b : Fin 16, (ks.getD 0 Vec16.zero)[b] = key.getD b.val 0 ∧ (ks.getD 1 Vec16.zero)[b] = key.getD (16 + b.val) 0) ∧
    ∀ i : Fin 4,
      (ks.getD (2 * i.val + 2) Vec16.zero, ks.getD (2 * i.val + 3) Vec16.zero) =
        (List.range 8).foldl
          (fun a j =>
            (xorVec
              (matApply prf.poly tbl.mat (Vector.ofFn fun m : Fin 16 => tbl.sub (a.1[m] ^^^
                (matApply prf.poly tbl.mat (Vector.ofFn fun l : Fin 16 =>
                  if l.val = 15 then BitVec.ofNat 8 (8 * i.val + j + 1) else 0))[m])))
              a.2,
            a.1))
          (ks.getD (2 * i.val) Vec16.zero, ks.getD (2 * i.val + 1) Vec16.zero))

/-! ### The modes -/

/-- `ECB_ENC` and `ECB_DEC` with a sufficient counter: every output block is the block operation of the input block as it was
before the command, in place or not; the counter falls by `M`; no other byte of memory and no other state changes (R185, R186,
R187, R69). -/
def Obligations.EcbResult : Prop :=
  (∀ (s : State) (k : SlotId), ModeReady (.ecbEnc k) k s →
    ∃ t, exec (.ecbEnc k) s = .next t ∧
      t = s.done k
        { s.slot k with
          resourceCounter := (s.slot k).resourceCounter - BitVec.ofNat 64 (s.buf0.len / (s.slot k).bs) }
        t.mem (s.buf0.len / (s.slot k).bs) ∧
      (∀ n, n < s.buf0.len / (s.slot k).bs →
        t.block s.buf1.addr (s.slot k).bs n = s.encrypts k (s.block s.buf0.addr (s.slot k).bs n)) ∧
      ∀ a, (a < s.buf1.addr ∨ s.buf1.addr + s.buf0.len ≤ a) → t.byte a = s.byte a) ∧
  (∀ (s : State) (k : SlotId), ModeReady (.ecbDec k) k s →
    ∃ t, exec (.ecbDec k) s = .next t ∧
      t = s.done k
        { s.slot k with
          resourceCounter := (s.slot k).resourceCounter - BitVec.ofNat 64 (s.buf0.len / (s.slot k).bs) }
        t.mem (s.buf0.len / (s.slot k).bs) ∧
      (∀ n, n < s.buf0.len / (s.slot k).bs →
        t.block s.buf1.addr (s.slot k).bs n = s.decrypts k (s.block s.buf0.addr (s.slot k).bs n)) ∧
      ∀ a, (a < s.buf1.addr ∨ s.buf1.addr + s.buf0.len ≤ a) → t.byte a = s.byte a)

/-- `CBC_ENC` with a sufficient counter: output block `n` is the encryption of input block `n` XOR the output block before it, the
IV for `n = 0`; `iv_buffer` holds the last output block, or the IV when there is none (R188, R189, R185). -/
def Obligations.CbcEncResult : Prop :=
  ∀ (s : State) (k : SlotId), ModeReady (.cbcEnc k) k s →
    ∃ t, exec (.cbcEnc k) s = .next t ∧
      t = s.done k
        ((s.slot k).after (s.buf0.len / (s.slot k).bs)
          (if s.buf0.len = 0 then s.block s.buf2.addr (s.slot k).bs 0
            else t.block s.buf1.addr (s.slot k).bs (s.buf0.len / (s.slot k).bs - 1)))
        t.mem (s.buf0.len / (s.slot k).bs) ∧
      (∀ n, n < s.buf0.len / (s.slot k).bs →
        t.block s.buf1.addr (s.slot k).bs n =
          s.encrypts k (xorBytes (s.block s.buf0.addr (s.slot k).bs n)
            (if n = 0 then s.block s.buf2.addr (s.slot k).bs 0
              else t.block s.buf1.addr (s.slot k).bs (n - 1)))) ∧
      ∀ a, (a < s.buf1.addr ∨ s.buf1.addr + s.buf0.len ≤ a) → t.byte a = s.byte a

/-- `CBC_DEC` with a sufficient counter: output block `n` is the decryption of input block `n` XOR the input block before it, the IV
for `n = 0`, also in place; `iv_buffer` holds the last input block, or the IV when there is none (R188, R190, R185). -/
def Obligations.CbcDecResult : Prop :=
  ∀ (s : State) (k : SlotId), ModeReady (.cbcDec k) k s →
    ∃ t, exec (.cbcDec k) s = .next t ∧
      t = s.done k
        ((s.slot k).after (s.buf0.len / (s.slot k).bs)
          (if s.buf0.len = 0 then s.block s.buf2.addr (s.slot k).bs 0
            else s.block s.buf0.addr (s.slot k).bs (s.buf0.len / (s.slot k).bs - 1)))
        t.mem (s.buf0.len / (s.slot k).bs) ∧
      (∀ n, n < s.buf0.len / (s.slot k).bs →
        t.block s.buf1.addr (s.slot k).bs n =
          xorBytes (s.decrypts k (s.block s.buf0.addr (s.slot k).bs n))
            (if n = 0 then s.block s.buf2.addr (s.slot k).bs 0
              else s.block s.buf0.addr (s.slot k).bs (n - 1))) ∧
      ∀ a, (a < s.buf1.addr ∨ s.buf1.addr + s.buf0.len ≤ a) → t.byte a = s.byte a

/-- `CTR` with a sufficient counter: output byte `o` is input byte `o` XOR byte `o mod bs` of the encrypted counter block
`o / bs`, up to the last partial block; `iv_buffer` holds the next counter block (R192, R193, R194, R185). -/
def Obligations.CtrResult : Prop :=
  ∀ (s : State) (k : SlotId), ModeReady (.ctr k) k s →
    ∃ t, exec (.ctr k) s = .next t ∧
      t = s.done k
        ((s.slot k).after (ceilDiv s.buf0.len (s.slot k).bs)
          (s.counterBlock (s.slot k).bs (ceilDiv s.buf0.len (s.slot k).bs)))
        t.mem (ceilDiv s.buf0.len (s.slot k).bs) ∧
      (∀ o, o < s.buf0.len →
        t.byte (s.buf1.addr + o) =
          s.byte (s.buf0.addr + o) ^^^
            (s.encrypts k (s.counterBlock (s.slot k).bs (o / (s.slot k).bs))).getD (o % (s.slot k).bs) 0) ∧
      ∀ a, (a < s.buf1.addr ∨ s.buf1.addr + s.buf0.len ≤ a) → t.byte a = s.byte a

/-- `CTR_ACPKM` with a sufficient counter: as `CTR`, but block `n` is encrypted under the slot with the next key derived
`n / section` times; the slot ends with the last derived key, and no derivation follows the last block (R196, R137, R181). -/
def Obligations.CtrAcpkmResult : Prop :=
  ∀ (s : State) (k : SlotId), ModeReady (.ctrAcpkm k) k s →
    ∃ t, exec (.ctrAcpkm k) s = .next t ∧
      t = s.done k
        (((nextKeySlot s.par s.tbl)^[(ceilDiv s.buf0.len (s.slot k).bs - 1) / s.extra] (s.slot k)).after
          (blocksNeeded (.ctrAcpkm k) s)
          (s.counterBlock (s.slot k).bs (ceilDiv s.buf0.len (s.slot k).bs)))
        t.mem (blocksNeeded (.ctrAcpkm k) s) ∧
      (∀ o, o < s.buf0.len →
        t.byte (s.buf1.addr + o) =
          s.byte (s.buf0.addr + o) ^^^
            (encryptBlock s.par s.tbl
              ((nextKeySlot s.par s.tbl)^[o / (s.slot k).bs / s.extra] (s.slot k))
              (s.counterBlock (s.slot k).bs (o / (s.slot k).bs))).getD (o % (s.slot k).bs) 0) ∧
      ∀ a, (a < s.buf1.addr ∨ s.buf1.addr + s.buf0.len ≤ a) → t.byte a = s.byte a

/-- `CMAC` with a sufficient counter: the leading `P6` bytes of the tag of the message are stored, nothing else of memory, and the
IV fields are untouched (R199, R200, R201, R185). -/
def Obligations.CmacResult : Prop :=
  ∀ (s : State) (k : SlotId), ModeReady (.cmac k) k s →
    ∃ t, exec (.cmac k) s = .next t ∧
      t = s.done k
        { s.slot k with
          resourceCounter := (s.slot k).resourceCounter - BitVec.ofNat 64 (blocksNeeded (.cmac k) s) }
        t.mem (blocksNeeded (.cmac k) s) ∧
      t.load s.buf1.addr s.extra =
        (cmacTag (s.encrypts k) (s.slot k).bs (s.load s.buf0.addr s.buf0.len)).take s.extra ∧
      ∀ a, (a < s.buf1.addr ∨ s.buf1.addr + s.extra ≤ a) → t.byte a = s.byte a

/-- An exhausted counter in the seven modes. With a counter of `r`, `0 < r < M`, `ECB_*`, `CBC_*` and `CTR` have written exactly the
first `r` output blocks, and correctly, `iv_buffer` holds what belongs to the start of block `r`, the counter is 0, and the error
carries `K = r` and `M`; `CMAC` writes nothing to memory. `CTR_ACPKM` has written exactly the first `n` blocks and either has spent
the whole counter, the keys derived so far kept, or stops before a derivation that the counter does not pay for, with the key
unchanged and the rest of the counter left (R163, R184, R196, R201, R256, R259). -/
def Obligations.LowKeyResourcePrefix : Prop :=
  (∀ (s : State) (k : SlotId) (r : Nat), s.Keyed k → modeVerdict (.ecbEnc k) k s = .go →
    r = (s.slot k).resourceCounter.toNat → r < s.buf0.len / (s.slot k).bs →
    ∃ t, exec (.ecbEnc k) s = .next t ∧
      t = s.runsOut k { s.slot k with resourceCounter := 0 } t.mem r (s.buf0.len / (s.slot k).bs) ∧
      (∀ n, n < r → t.block s.buf1.addr (s.slot k).bs n = s.encrypts k (s.block s.buf0.addr (s.slot k).bs n)) ∧
      ∀ a, (a < s.buf1.addr ∨ s.buf1.addr + r * (s.slot k).bs ≤ a) → t.byte a = s.byte a) ∧
  (∀ (s : State) (k : SlotId) (r : Nat), s.Keyed k → modeVerdict (.ecbDec k) k s = .go →
    r = (s.slot k).resourceCounter.toNat → r < s.buf0.len / (s.slot k).bs →
    ∃ t, exec (.ecbDec k) s = .next t ∧
      t = s.runsOut k { s.slot k with resourceCounter := 0 } t.mem r (s.buf0.len / (s.slot k).bs) ∧
      (∀ n, n < r → t.block s.buf1.addr (s.slot k).bs n = s.decrypts k (s.block s.buf0.addr (s.slot k).bs n)) ∧
      ∀ a, (a < s.buf1.addr ∨ s.buf1.addr + r * (s.slot k).bs ≤ a) → t.byte a = s.byte a) ∧
  (∀ (s : State) (k : SlotId) (r : Nat), s.Keyed k → modeVerdict (.cbcEnc k) k s = .go →
    r = (s.slot k).resourceCounter.toNat → r < s.buf0.len / (s.slot k).bs →
    ∃ t, exec (.cbcEnc k) s = .next t ∧
      t = s.runsOut k ((s.slot k).after r (t.block s.buf1.addr (s.slot k).bs (r - 1))) t.mem r
        (s.buf0.len / (s.slot k).bs) ∧
      (∀ n, n < r →
        t.block s.buf1.addr (s.slot k).bs n =
          s.encrypts k (xorBytes (s.block s.buf0.addr (s.slot k).bs n)
            (if n = 0 then s.block s.buf2.addr (s.slot k).bs 0
              else t.block s.buf1.addr (s.slot k).bs (n - 1)))) ∧
      ∀ a, (a < s.buf1.addr ∨ s.buf1.addr + r * (s.slot k).bs ≤ a) → t.byte a = s.byte a) ∧
  (∀ (s : State) (k : SlotId) (r : Nat), s.Keyed k → modeVerdict (.cbcDec k) k s = .go →
    r = (s.slot k).resourceCounter.toNat → r < s.buf0.len / (s.slot k).bs →
    ∃ t, exec (.cbcDec k) s = .next t ∧
      t = s.runsOut k ((s.slot k).after r (s.block s.buf0.addr (s.slot k).bs (r - 1))) t.mem r
        (s.buf0.len / (s.slot k).bs) ∧
      (∀ n, n < r →
        t.block s.buf1.addr (s.slot k).bs n =
          xorBytes (s.decrypts k (s.block s.buf0.addr (s.slot k).bs n))
            (if n = 0 then s.block s.buf2.addr (s.slot k).bs 0
              else s.block s.buf0.addr (s.slot k).bs (n - 1))) ∧
      ∀ a, (a < s.buf1.addr ∨ s.buf1.addr + r * (s.slot k).bs ≤ a) → t.byte a = s.byte a) ∧
  (∀ (s : State) (k : SlotId) (r : Nat), s.Keyed k → modeVerdict (.ctr k) k s = .go →
    r = (s.slot k).resourceCounter.toNat → r < ceilDiv s.buf0.len (s.slot k).bs →
    ∃ t, exec (.ctr k) s = .next t ∧
      t = s.runsOut k ((s.slot k).after r (s.counterBlock (s.slot k).bs r)) t.mem r
        (ceilDiv s.buf0.len (s.slot k).bs) ∧
      (∀ o, o < r * (s.slot k).bs →
        t.byte (s.buf1.addr + o) =
          s.byte (s.buf0.addr + o) ^^^
            (s.encrypts k (s.counterBlock (s.slot k).bs (o / (s.slot k).bs))).getD (o % (s.slot k).bs) 0) ∧
      ∀ a, (a < s.buf1.addr ∨ s.buf1.addr + r * (s.slot k).bs ≤ a) → t.byte a = s.byte a) ∧
  (∀ (s : State) (k : SlotId), s.Keyed k → modeVerdict (.ctrAcpkm k) k s = .go →
    (s.slot k).resourceCounter.toNat < blocksNeeded (.ctrAcpkm k) s →
    ∃ (n d calls : Nat) (t : State), n < ceilDiv s.buf0.len (s.slot k).bs ∧
      (((s.slot k).resourceCounter.toNat = s.acpkmCalls k n ∧ d = n / s.extra ∧ calls = s.acpkmCalls k n) ∨
        (0 < n ∧ n % s.extra = 0 ∧ (s.slot k).resourceCounter.toNat < s.acpkmCalls k n ∧ d = n / s.extra - 1 ∧
          calls + ceilDiv (s.slot k).keyLen.toNat (s.slot k).bs = s.acpkmCalls k n ∧
          calls ≤ (s.slot k).resourceCounter.toNat)) ∧
      exec (.ctrAcpkm k) s = .next t ∧
      t = s.runsOut k
        (((nextKeySlot s.par s.tbl)^[d] (s.slot k)).after calls (s.counterBlock (s.slot k).bs n)) t.mem calls
        (blocksNeeded (.ctrAcpkm k) s) ∧
      (∀ o, o < n * (s.slot k).bs →
        t.byte (s.buf1.addr + o) =
          s.byte (s.buf0.addr + o) ^^^
            (encryptBlock s.par s.tbl
              ((nextKeySlot s.par s.tbl)^[o / (s.slot k).bs / s.extra] (s.slot k))
              (s.counterBlock (s.slot k).bs (o / (s.slot k).bs))).getD (o % (s.slot k).bs) 0) ∧
      ∀ a, (a < s.buf1.addr ∨ s.buf1.addr + n * (s.slot k).bs ≤ a) → t.byte a = s.byte a) ∧
  (∀ (s : State) (k : SlotId) (r : Nat), s.Keyed k → modeVerdict (.cmac k) k s = .go →
    r = (s.slot k).resourceCounter.toNat → r < blocksNeeded (.cmac k) s →
    exec (.cmac k) s =
      .next (s.runsOut k { s.slot k with resourceCounter := 0 } s.mem r (blocksNeeded (.cmac k) s)))

/-- `CTR_ACPKM` with a section at least as long as the input behaves exactly as `CTR`, on every state and whatever the outcome
(R196). -/
def Obligations.AcpkmLongSectionIsCtr : Prop :=
  ∀ (s : State) (k : SlotId), 0 < s.extra → ceilDiv s.buf0.len (s.slot k).bs ≤ s.extra →
    exec (.ctrAcpkm k) s = exec (.ctr k) s

/-- Encrypting and then decrypting a buffer in place restores it, by ECB and by CBC under the same IV, when the counter suffices for
both commands; kind `B8`, which reads no table, whatever the tables are (R187, R190, R283). -/
def Obligations.EncryptDecryptInPlace : Prop :=
  ∀ (s : State) (k : SlotId),
    ((s.slot k).kind = .b8 ∨ (s.TablesOk ∧ s.tbl.valid = true ∧ LastLinOk s.par.profile)) →
    s.buf1.addr = s.buf0.addr → 2 * (s.buf0.len / (s.slot k).bs) ≤ (s.slot k).resourceCounter.toNat →
    (ModeReady (.ecbEnc k) k s →
      ∃ t u, exec (.ecbEnc k) s = .next t ∧ exec (.ecbDec k) t = .next u ∧ u.res = 0 ∧ ∀ a, u.byte a = s.byte a) ∧
    (ModeReady (.cbcEnc k) k s →
      ∃ t u, exec (.cbcEnc k) s = .next t ∧ exec (.cbcDec k) t = .next u ∧ u.res = 0 ∧ ∀ a, u.byte a = s.byte a)

/-- CTR is its own inverse: running it twice in place under the same IV restores every byte of memory, when the counter suffices
for both (R195). -/
def Obligations.CtrTwiceInPlace : Prop :=
  ∀ (s : State) (k : SlotId), ModeReady (.ctr k) k s → s.buf1.addr = s.buf0.addr →
    2 * ceilDiv s.buf0.len (s.slot k).bs ≤ (s.slot k).resourceCounter.toNat →
    ∃ t u, exec (.ctr k) s = .next t ∧ exec (.ctr k) t = .next u ∧ u.res = 0 ∧ ∀ a, u.byte a = s.byte a

/-- R193: `inc` adds 1 to the block read as a big-endian number, modulo `2^(8*bs)`, keeping its length; and the rule's
example. -/
def Obligations.CounterIncrement : Prop :=
  (∀ b : List Byte, (incBlock b).length = b.length ∧ be (incBlock b) = (be b + 1) % 2 ^ (8 * b.length)) ∧
  (∀ n : Nat, incBlock (List.replicate n 0xFF) = List.replicate n 0) ∧
  incBlock [0xf0, 0xf1, 0xf2, 0xf3, 0xf4, 0xf5, 0xf6, 0xf7, 0xf8, 0xf9, 0xfa, 0xfb, 0xfc, 0xfd, 0xfe, 0xff] =
    [0xf0, 0xf1, 0xf2, 0xf3, 0xf4, 0xf5, 0xf6, 0xf7, 0xf8, 0xf9, 0xfa, 0xfb, 0xfc, 0xfd, 0xff, 0x00]

/-- R200 with the constants of R198: doubling shifts the big-endian number left by one and folds `Rb` in when the bit shifted out
is 1; and the rule's examples. -/
def Obligations.CmacDoubling : Prop :=
  (∀ (bs : Nat) (b : List Byte), (bs = 8 ∨ bs = 16) → b.length = bs →
    (doubleBlock bs b).length = bs ∧
    be (doubleBlock bs b) =
      if be b < 2 ^ (8 * bs - 1) then 2 * be b
      else (2 * be b - 2 ^ (8 * bs)) ^^^ (if bs = 16 then 0x87 else 0x1B)) ∧
  doubleBlock 16
      [0x7d, 0xf7, 0x6b, 0x0c, 0x1a, 0xb8, 0x99, 0xb3, 0x3e, 0x42, 0xf0, 0x47, 0xb9, 0x1b, 0x54, 0x6f] =
    [0xfb, 0xee, 0xd6, 0x18, 0x35, 0x71, 0x33, 0x66, 0x7c, 0x85, 0xe0, 0x8f, 0x72, 0x36, 0xa8, 0xde] ∧
  doubleBlock 16
      [0xfb, 0xee, 0xd6, 0x18, 0x35, 0x71, 0x33, 0x66, 0x7c, 0x85, 0xe0, 0x8f, 0x72, 0x36, 0xa8, 0xde] =
    [0xf7, 0xdd, 0xac, 0x30, 0x6a, 0xe2, 0x66, 0xcc, 0xf9, 0x0b, 0xc1, 0x1e, 0xe4, 0x6d, 0x51, 0x3b]

/-! ### The cipher core -/

/-- Decryption is the inverse of encryption and encryption of decryption, on blocks of the slot's size, for every kind and any round
keys, the 16-byte kinds on a consistent table set (R156, R158, R170), kind `B8` on any (R7 for `alg8`, R283). -/
def Obligations.BlockInverse : Prop :=
  ∀ (par : Params) (tbl : TableSet) (sl : Slot) (b : List Byte),
    (sl.kind = .b8 ∨
      (par.profile.poly.getLsbD 8 = true ∧ LastLinOk par.profile ∧ tbl.Consistent par.profile.poly)) →
    sl.Shape → b.length = sl.bs →
    decryptBlock par tbl sl (encryptBlock par tbl sl b) = b ∧ encryptBlock par tbl sl (decryptBlock par tbl sl b) = b

/-- R159: the tabled and the plain operations give the same result, in both directions, for any round keys and every block, on a
consistent table set. -/
def Obligations.TabledIsPlain : Prop :=
  ∀ (par : Params) (tbl : TableSet) (sl : Slot) (b : List Byte), par.profile.poly.getLsbD 8 = true →
    tbl.Consistent par.profile.poly →
    encryptBlock par tbl { sl with kind := .b16t } b = encryptBlock par tbl { sl with kind := .b16p } b ∧
    decryptBlock par tbl { sl with kind := .b16t } b = decryptBlock par tbl { sl with kind := .b16p } b

/-- `ENCRYPT_BLOCK` and `DECRYPT_BLOCK` issued for the latched slot: with an algorithm bound, a key set, and valid tables or kind
`B8`, which reads none, latch `v` takes the block's image, and nothing else changes (R155 to R158, R169, R283). And what that image
is, for every block and in the modes too: with `nrk = Nr + 1`, `1 <= Nr <= 14`, the rounds of R150 and R156 lane by lane for `B16P`,
those of R157 and R158 for `B16T`, and `E8` or `D8` of `alg8` under the slot's schedule for `B8`. Where operands
stand and that an entry is issued alone is the model's choice (log entries 5 and 13); so are the stops by name on an unbound slot
and on one without a key, for which the spec gives no effect (log entry 24). -/
def Obligations.BlockEntries : Prop :=
  ∀ s : State,
    ((s.slot s.seq.slot).Shape → (s.slot s.seq.slot).keySet = true →
      (s.tbl.valid = true ∨ (s.slot s.seq.slot).kind = .b8) →
      ∃ w w' : Vec16,
        exec .encryptBlock s = .next { s with seq := { s.seq with v := w } } ∧
        exec .decryptBlock s = .next { s with seq := { s.seq with v := w' } } ∧
        w.toList.take (s.slot s.seq.slot).bs =
          s.encrypts s.seq.slot (s.seq.v.toList.take (s.slot s.seq.slot).bs) ∧
        w'.toList.take (s.slot s.seq.slot).bs =
          s.decrypts s.seq.slot (s.seq.v.toList.take (s.slot s.seq.slot).bs)) ∧
    (∀ (k : SlotId) (nr : Fin 15) (b : Vec16), 0 < nr.val → (s.slot k).nrk.toNat = nr.val + 1 →
      ((s.slot k).kind = .b16p →
        (∃ w : Vec16, s.encrypts k b.toList = w.toList ∧
          PlainEncryption s.par.profile s.tbl (s.slot k).rk nr b w) ∧
        (LastLinOk s.par.profile → ∃ w : Vec16, s.decrypts k b.toList = w.toList ∧
          PlainDecryption s.par.profile s.tbl (s.slot k).rk nr b w)) ∧
      ((s.slot k).kind = .b16t →
        (∃ w : Vec16, s.encrypts k b.toList = w.toList ∧
          TabledEncryption s.par.profile s.tbl (s.slot k).rk nr b w) ∧
        (LastLinOk s.par.profile → ∃ w : Vec16, s.decrypts k b.toList = w.toList ∧
          TabledDecryption s.par.profile s.tbl (s.slot k).rk nr b w))) ∧
    (∀ (k : SlotId) (b : Vector Byte 8), (s.slot k).kind = .b8 →
      s.encrypts k b.toList = (Config.alg8Block (s.slot k).rk b).toList ∧
      s.decrypts k b.toList = ((Config.alg8Block (s.slot k).rk).symm b).toList) ∧
    ((s.slot s.seq.slot).kind = .unbound →
      exec .encryptBlock s = .fault .noOperationBound ∧ exec .decryptBlock s = .fault .noOperationBound) ∧
    ((s.slot s.seq.slot).kind ≠ .unbound → (s.slot s.seq.slot).keySet = false →
      exec .encryptBlock s = .fault .noKeyInstalled ∧ exec .decryptBlock s = .fault .noKeyInstalled)

/-- `SCHEDULE_KEYS` on the latched slot of a 16-byte kind with valid tables: `nrk = Nr + 1`, the round keys are the profile's
expansion, those beyond are zero; on kind `B8` the schedule of `alg8`; `ERASE_KEYS`: `rk` and `nrk` are zero, and a second one
changes nothing. No other state changes (R160, R161). The model's choices in it: the latched slot and the lone issue (log entries
5 and 13), the expansions under a profile for which their own rules do not give them (log entry 15), `nrk` of kind `B8` (log entry
16), and the stops by name on an unbound slot and on a key length that the kind does not accept (log entry 24). -/
def Obligations.KeyScheduleEntries : Prop :=
  (∀ s : State, ((s.slot s.seq.slot).kind = .b16t ∨ (s.slot s.seq.slot).kind = .b16p) → s.tbl.valid = true →
    AcceptedKeyLen s.par (s.slot s.seq.slot).kind (s.slot s.seq.slot).keyLen.toNat →
    ∃ (rk : RoundKeys) (nr : Nat), nr = roundsOf s.par.profile (s.slot s.seq.slot).keyLen.toNat ∧
      exec .scheduleKeys s =
        .next (s.setSlot s.seq.slot { s.slot s.seq.slot with rk := rk, nrk := BitVec.ofNat 4 (nr + 1) }) ∧
      (∀ i : Fin 15, i.val ≤ nr → rk[i] =
        (match s.par.profile.expand with
          | .aes => expandAes s.par.profile s.tbl (s.slot s.seq.slot).keyBytes nr
          | .gost => expandGost s.par.profile s.tbl (s.slot s.seq.slot).keyBytes).getD i.val Vec16.zero) ∧
      ∀ i : Fin 15, nr < i.val → rk[i] = Vec16.zero) ∧
  (∀ s : State, (s.slot s.seq.slot).kind = .b8 →
    AcceptedKeyLen s.par .b8 (s.slot s.seq.slot).keyLen.toNat →
    exec .scheduleKeys s =
      .next (s.setSlot s.seq.slot
        { s.slot s.seq.slot with
          rk := Config.alg8Schedule (s.slot s.seq.slot).keyBytes
          nrk := Config.alg8Nrk (s.slot s.seq.slot).keyBytes })) ∧
  (∀ s : State, (s.slot s.seq.slot).kind = .unbound → exec .scheduleKeys s = .fault .noOperationBound) ∧
  (∀ s : State, (s.slot s.seq.slot).kind ≠ .unbound →
    ¬ AcceptedKeyLen s.par (s.slot s.seq.slot).kind (s.slot s.seq.slot).keyLen.toNat →
    exec .scheduleKeys s = .fault .keyLengthNotValidated) ∧
  (∀ s : State,
    ∃ t, exec .eraseKeys s = .next t ∧
      t = s.setSlot s.seq.slot { s.slot s.seq.slot with rk := Vector.replicate 15 Vec16.zero, nrk := 0 } ∧
      exec .eraseKeys t = .next t)

/-- The byte stages lane by lane, and that nothing changes but latch `v`: `ADD_ROUND_KEY` (R151), `SUB_BYTES` (R152),
`INV_SUB_BYTES` (R164), and the byte permutation of the last round both ways (R154, R166). That they are issued alone, with the
operands in latches `v` and `k` and the result in latch `v`, is the model's choice (log entries 5 and 13). -/
def Obligations.ByteStages : Prop :=
  (∀ s : State, ∃ w : Vec16, exec .addRoundKey s = .next { s with seq := { s.seq with v := w } } ∧
    ∀ i : Fin 16, w[i] = s.seq.v[i] ^^^ s.seq.k[i]) ∧
  (∀ s : State, s.tbl.valid = true → ∃ w : Vec16, exec .subBytes s = .next { s with seq := { s.seq with v := w } } ∧
    ∀ i : Fin 16, w[i] = lookup s.tbl.perm s.seq.v[i]) ∧
  (∀ s : State, s.tbl.valid = true → ∃ w : Vec16, exec .invSubBytes s = .next { s with seq := { s.seq with v := w } } ∧
    ∀ i : Fin 16, w[i] = lookup s.tbl.permInv s.seq.v[i]) ∧
  (∀ (s : State) (pi : Vector (Fin 16) 16), s.par.profile.lastLin = .bytePerm pi →
    ∃ w : Vec16, exec .linearLast s = .next { s with seq := { s.seq with v := w } } ∧
      ∀ i : Fin 16, w[i] = s.seq.v[pi[i]]) ∧
  (∀ (s : State) (pi : Vector (Fin 16) 16), s.par.profile.lastLin = .bytePerm pi → LastLinOk s.par.profile →
    ∃ w : Vec16, exec .invLinearLast s = .next { s with seq := { s.seq with v := w } } ∧
      ∀ i : Fin 16, w[pi[i]] = s.seq.v[i])

/-- The matrix stages on valid tables, and that nothing changes but latch `v`: `LINEAR` (R153), `INV_LINEAR` (R165), `LINEAR_LAST` and
`INV_LINEAR_LAST` with `last_lin = SAME` (R154, R166), `ROUND_T` (R167), `INV_ROUND_T` (R168). That they are issued alone, with
operand and result in latch `v`, is the model's choice (log entries 5 and 13). -/
def Obligations.MatrixStages : Prop :=
  ∀ s : State, s.tbl.valid = true →
    (∃ w : Vec16, exec .linear s = .next { s with seq := { s.seq with v := w } } ∧
      (s.par.profile.lastLin = .same → exec .linearLast s = .next { s with seq := { s.seq with v := w } }) ∧
      ∀ i : Fin 16, w[i] = xorSum fun j => gfMul s.par.profile.poly (s.tbl.mat[i])[j] s.seq.v[j]) ∧
    (∃ w : Vec16, exec .invLinear s = .next { s with seq := { s.seq with v := w } } ∧
      (s.par.profile.lastLin = .same → exec .invLinearLast s = .next { s with seq := { s.seq with v := w } }) ∧
      ∀ i : Fin 16, w[i] = xorSum fun j => gfMul s.par.profile.poly (s.tbl.matInv[i])[j] s.seq.v[j]) ∧
    (∃ w : Vec16, exec .roundT s = .next { s with seq := { s.seq with v := w } } ∧
      ∀ i : Fin 16, w[i] = xorSum fun j => (lookup s.tbl.fwd[j] s.seq.v[j])[i]) ∧
    (∃ w : Vec16, exec .invRoundT s = .next { s with seq := { s.seq with v := w } } ∧
      ∀ i : Fin 16, w[i] = xorSum fun j => (lookup s.tbl.bwd[j] s.seq.v[j])[i])

/-- While the table arrays are unspecified (`TBL.valid = 0`) an operation that would read them completes with a free value: latch `v`
of a stage or of a 16-byte block operation, or the round keys `rk[0..Nr]` of `SCHEDULE_KEYS`, is the free value of this draw, and
nothing else of the hardware's state changes but what the operation writes without it. And no internal operation reads the arrays:
what they hold makes no difference to any outcome (R45, R282). That the result is a free value is the model's choice (log entry
11), and so are the draw counter, the latches and the lone issue (log entries 4, 5 and 13). -/
def Obligations.UnspecifiedTables : Prop :=
  (∀ (s : State) (i : Instr), s.tbl.valid = false →
    (i ∈ [Instr.subBytes, .linear, .invSubBytes, .invLinear, .roundT, .invRoundT] ∨
      (s.par.profile.lastLin = .same ∧ i ∈ [Instr.linearLast, .invLinearLast]) ∨
      (((s.slot s.seq.slot).kind = .b16t ∨ (s.slot s.seq.slot).kind = .b16p) ∧ (s.slot s.seq.slot).keySet = true ∧
        i ∈ [Instr.encryptBlock, .decryptBlock])) →
    exec i s =
      .next { s with seq := { s.seq with v := Config.unspecifiedVec s.draws }, draws := s.draws + 1 }) ∧
  (∀ (s : State) (nr : Nat), s.tbl.valid = false →
    ((s.slot s.seq.slot).kind = .b16t ∨ (s.slot s.seq.slot).kind = .b16p) →
    AcceptedKeyLen s.par (s.slot s.seq.slot).kind (s.slot s.seq.slot).keyLen.toNat →
    nr = roundsOf s.par.profile (s.slot s.seq.slot).keyLen.toNat →
    exec .scheduleKeys s =
      .next (State.setSlot { s with draws := s.draws + 1 } s.seq.slot
        { s.slot s.seq.slot with
          rk := Vector.ofFn fun i : Fin 15 => if i.val ≤ nr then (Config.unspecifiedKeys s.draws)[i] else Vec16.zero
          nrk := BitVec.ofNat 4 (nr + 1) })) ∧
  ∀ (s : State) (tables : TableSet) (i : Instr), i.hostIssuable = false → s.tbl.valid = false → tables.valid = false →
    exec i { s with tbl := tables } = withTables tables (exec i s)

/-- `SHIFT_ROWS` under `PROFILE_AES` by rows and columns and as the byte permutation `pi_SR`, and the rule's example; nothing changes
but latch `v` (R213, R86). That it stops by name under another profile, which does not have it, is the model's reading (log entry
14), and that it is issued alone on latch `v` is the model's choice (log entries 5 and 13). -/
def Obligations.ShiftRowsRule : Prop :=
  (∀ s : State, s.par.profile = profileAes →
    ∃ w : Vec16, exec .shiftRows s = .next { s with seq := { s.seq with v := w } } ∧ w = shiftRows s.seq.v) ∧
  (∀ s : State, s.par.profile ≠ profileAes → exec .shiftRows s = .refused .aesProfileOnly) ∧
  (∀ (v : Vec16) (r c : Fin 4) (h : r.val + 4 * c.val < 16) (h' : r.val + 4 * ((c.val + r.val) % 4) < 16),
    (shiftRows v)[r.val + 4 * c.val] = v[r.val + 4 * ((c.val + r.val) % 4)]) ∧
  (∀ (v : Vec16) (i : Fin 16), (shiftRows v)[i] = v[piShiftRows[i]]) ∧
  piShiftRows.toList = [0, 5, 10, 15, 4, 9, 14, 3, 8, 13, 2, 7, 12, 1, 6, 11] ∧
  shiftRows #v[0x00, 0x01, 0x02, 0x03, 0x04, 0x05, 0x06, 0x07, 0x08, 0x09, 0x0a, 0x0b, 0x0c, 0x0d, 0x0e, 0x0f] =
    #v[0x00, 0x05, 0x0a, 0x0f, 0x04, 0x09, 0x0e, 0x03, 0x08, 0x0d, 0x02, 0x07, 0x0c, 0x01, 0x06, 0x0b]

/-- `MIX_COLUMNS` under `PROFILE_AES`: its four equations for every column, and the rule's examples; nothing changes but latch `v`
(R214, R86). That it stops by name under another profile is the model's reading (log entry 14), and that it is issued alone on latch
`v` is the model's choice (log entries 5 and 13). -/
def Obligations.MixColumnsRule : Prop :=
  (∀ s : State, s.par.profile = profileAes →
    ∃ w : Vec16, exec .mixColumns s = .next { s with seq := { s.seq with v := w } } ∧ w = mixColumns s.seq.v) ∧
  (∀ s : State, s.par.profile ≠ profileAes → exec .mixColumns s = .refused .aesProfileOnly) ∧
  (∀ (v : Vec16) (c : Nat) (h : 4 * c + 3 < 16),
    (mixColumns v)[4 * c] = gfMul 0x11B 2 v[4 * c] ^^^ gfMul 0x11B 3 v[4 * c + 1] ^^^ v[4 * c + 2] ^^^ v[4 * c + 3] ∧
    (mixColumns v)[4 * c + 1] = v[4 * c] ^^^ gfMul 0x11B 2 v[4 * c + 1] ^^^ gfMul 0x11B 3 v[4 * c + 2] ^^^ v[4 * c + 3] ∧
    (mixColumns v)[4 * c + 2] = v[4 * c] ^^^ v[4 * c + 1] ^^^ gfMul 0x11B 2 v[4 * c + 2] ^^^ gfMul 0x11B 3 v[4 * c + 3] ∧
    (mixColumns v)[4 * c + 3] = gfMul 0x11B 3 v[4 * c] ^^^ v[4 * c + 1] ^^^ v[4 * c + 2] ^^^ gfMul 0x11B 2 v[4 * c + 3]) ∧
  (∀ v : Vec16, v[0] = 0xdb → v[1] = 0x13 → v[2] = 0x53 → v[3] = 0x45 →
    (mixColumns v)[0] = 0x8e ∧ (mixColumns v)[1] = 0x4d ∧ (mixColumns v)[2] = 0xa1 ∧ (mixColumns v)[3] = 0xbc) ∧
  mixColumns (Vector.replicate 16 0x01) = Vector.replicate 16 0x01

/-- The inverse byte stages of the AES profile: `INV_SHIFT_ROWS` undoes `SHIFT_ROWS` and is the inverse permutation of the last round
(R218), `INV_MIX_COLUMNS` has the four equations of R219 and undoes `MIX_COLUMNS`, nothing changes but latch `v`. And the AES
linear layer is one matrix: `MIX_COLUMNS(SHIFT_ROWS(v)) = mat_apply(M_AES, v)`, with the entries R215 gives, and
the printed `M_AES^-1` is its inverse, and applying it is `INV_SHIFT_ROWS(INV_MIX_COLUMNS(v))` (R215, R219, R220). That the two stop by
name under another profile is the model's reading (log entry 14), and that they are issued alone on latch `v` is the model's choice
(log entries 5 and 13). -/
def Obligations.InverseAesStages : Prop :=
  (∀ s : State, s.par.profile ≠ profileAes →
    exec .invShiftRows s = .refused .aesProfileOnly ∧ exec .invMixColumns s = .refused .aesProfileOnly) ∧
  (∀ s : State, s.par.profile = profileAes → ∃ w w' : Vec16,
    exec .invShiftRows s = .next { s with seq := { s.seq with v := w } } ∧
    exec .invMixColumns s = .next { s with seq := { s.seq with v := w' } } ∧
    (∀ i : Fin 16, w[piShiftRows[i]] = s.seq.v[i]) ∧ w' = invMixColumns s.seq.v) ∧
  (∀ v : Vec16, invShiftRows (shiftRows v) = v ∧ shiftRows (invShiftRows v) = v ∧
    invShiftRows v = bytePermInv piShiftRows v ∧ invMixColumns (mixColumns v) = v ∧ mixColumns (invMixColumns v) = v) ∧
  (∀ (v : Vec16) (c : Nat) (h : 4 * c + 3 < 16),
    (invMixColumns v)[4 * c] = gfMul 0x11B 0x0e v[4 * c] ^^^ gfMul 0x11B 0x0b v[4 * c + 1] ^^^
      gfMul 0x11B 0x0d v[4 * c + 2] ^^^ gfMul 0x11B 0x09 v[4 * c + 3] ∧
    (invMixColumns v)[4 * c + 1] = gfMul 0x11B 0x09 v[4 * c] ^^^ gfMul 0x11B 0x0e v[4 * c + 1] ^^^
      gfMul 0x11B 0x0b v[4 * c + 2] ^^^ gfMul 0x11B 0x0d v[4 * c + 3] ∧
    (invMixColumns v)[4 * c + 2] = gfMul 0x11B 0x0d v[4 * c] ^^^ gfMul 0x11B 0x09 v[4 * c + 1] ^^^
      gfMul 0x11B 0x0e v[4 * c + 2] ^^^ gfMul 0x11B 0x0b v[4 * c + 3] ∧
    (invMixColumns v)[4 * c + 3] = gfMul 0x11B 0x0b v[4 * c] ^^^ gfMul 0x11B 0x0d v[4 * c + 1] ^^^
      gfMul 0x11B 0x09 v[4 * c + 2] ^^^ gfMul 0x11B 0x0e v[4 * c + 3]) ∧
  (∀ v : Vec16, mixColumns (shiftRows v) = matApply 0x11B matrixAes v) ∧
  (∀ r c k : Fin 4, ∀ (h : r.val + 4 * c.val < 16) (h' : k.val + 4 * ((c.val + k.val) % 4) < 16),
    (matrixAes[r.val + 4 * c.val])[k.val + 4 * ((c.val + k.val) % 4)] =
      ([0x02, 0x03, 0x01, 0x01] : List Byte).getD ((k.val + 4 - r.val) % 4) 0) ∧
  MatInverse 0x11B matrixAes matrixAesInv ∧
  ∀ v : Vec16, matApply 0x11B matrixAesInv v = invShiftRows (invMixColumns v)

/-! ### The whole machine -/

/-- Whatever the next event is, a step keeps memory in canonical form and inside the address space (R60, R182), and no step writes a
parameter, so that well-formed ones stay so (R7, R8, R20; that they stand in the state is the model's choice, log entry 3). -/
def Obligations.MemoryInvariant : Prop :=
  (∀ s t : State, s.MemOk → step s = .next t → t.MemOk) ∧ ∀ s t : State, step s = .next t → t.par = s.par

/-- R31 (a) to (f): on a machine driven by the host, every step keeps every slot's invariant. That a bound slot's block size never
changes, the second half of (a), is a statement about two states and stands in `CommandFrame`. -/
def Obligations.SlotInvariant : Prop :=
  ∀ s t : State, s.SlotsOk → step s = .next t → t.SlotsOk

/-- What no host command does, whatever its outcome: write an operand register or `CMD` (R21), another slot (R273), `TBL` unless it
is an init command (R42), a byte outside its output (R182, R276), or set a reserved bit of `RES` (R23); that `R_LEFT` is the slot's
counter, that the counter grows only by a new key (R35, R137), and that a slot once bound keeps its kind and its block size for as
long as it is present (R30, R31 (a)). -/
def Obligations.CommandFrame : Prop :=
  ∀ (i : Instr) (s t : State), i.hostIssuable = true → exec i s = .next t →
    (t.p = s.p ∧ t.cmd = s.cmd ∧ t.par = s.par ∧ t.agenda = s.agenda) ∧
    (∀ k : SlotId, i.namedSlot ≠ some k → t.slot k = s.slot k) ∧
    (i.initsTables = false → t.tbl = s.tbl) ∧
    (∀ a, (a < s.buf1.addr ∨ s.buf1.addr + outBytes i s ≤ a) → t.byte a = s.byte a) ∧
    t.res.toNat < 256 ∧
    (t.res ≠ 0xFE → t.seq = Sequencer.zero ∧
      t.rLeft = match i.namedSlot with
        | some k => if (t.slot k).present = true then (t.slot k).resourceCounter else 0
        | none => 0) ∧
    (∀ k : SlotId, i ≠ .setKey k → (∀ n, i ≠ .setKeyRandom k n) →
      (t.slot k).resourceCounter.toNat ≤ (s.slot k).resourceCounter.toNat) ∧
    (∀ k : SlotId, (s.slot k).kind ≠ .unbound → (s.slot k).present = true → (t.slot k).present = true →
      (t.slot k).kind = (s.slot k).kind ∧ (t.slot k).blockSize = (s.slot k).blockSize)

/-- No host command shows a key, its tag or an IV that an earlier command left: two states that differ only in those fields of their
slots give outcomes that differ only in those fields, so that memory and every register agree (R32, R33, R34, R183). -/
def Obligations.HiddenStateUnobservable : Prop :=
  ∀ (i : Instr) (s s' : State), i.hostIssuable = true → s.visible = s'.visible →
    visibleOutcome (exec i s) = visibleOutcome (exec i s')
end

