-- ==== Sys2Proof/Laws/State.lean ====
section
/-! SUPPORT. Every field of the state after every update of Machine/Ops.lean, Machine/Internal.lean and Machine/Issue.lean, true
by unfolding once, so that no later proof unfolds a record update; and the slots after a slot update. -/

namespace Sys2Proof.Machine

section
variable (s : State)

/-! ### `State.store` -/

@[simp] theorem State.store_p (addr n : Nat) (v : List Byte) : (s.store addr n v).p = s.p := rfl
@[simp] theorem State.store_cmd (addr n : Nat) (v : List Byte) : (s.store addr n v).cmd = s.cmd := rfl
@[simp] theorem State.store_res (addr n : Nat) (v : List Byte) : (s.store addr n v).res = s.res := rfl
@[simp] theorem State.store_rDone (addr n : Nat) (v : List Byte) : (s.store addr n v).rDone = s.rDone := rfl
@[simp] theorem State.store_rReq (addr n : Nat) (v : List Byte) : (s.store addr n v).rReq = s.rReq := rfl
@[simp] theorem State.store_rLeft (addr n : Nat) (v : List Byte) : (s.store addr n v).rLeft = s.rLeft := rfl
@[simp] theorem State.store_fault (addr n : Nat) (v : List Byte) : (s.store addr n v).fault = s.fault := rfl
@[simp] theorem State.store_faultCause (addr n : Nat) (v : List Byte) : (s.store addr n v).faultCause = s.faultCause := rfl
@[simp] theorem State.store_slots (addr n : Nat) (v : List Byte) : (s.store addr n v).slots = s.slots := rfl
@[simp] theorem State.store_tbl (addr n : Nat) (v : List Byte) : (s.store addr n v).tbl = s.tbl := rfl
@[simp] theorem State.store_mem (addr n : Nat) (v : List Byte) : (s.store addr n v).mem = Memory.writeBytes s.mem addr (v.take n) := rfl
@[simp] theorem State.store_par (addr n : Nat) (v : List Byte) : (s.store addr n v).par = s.par := rfl
@[simp] theorem State.store_draws (addr n : Nat) (v : List Byte) : (s.store addr n v).draws = s.draws := rfl
@[simp] theorem State.store_seq (addr n : Nat) (v : List Byte) : (s.store addr n v).seq = s.seq := rfl
@[simp] theorem State.store_agenda (addr n : Nat) (v : List Byte) : (s.store addr n v).agenda = s.agenda := rfl

/-! ### `State.setSlot` -/

@[simp] theorem State.setSlot_p (k : SlotId) (sl : Slot) : (s.setSlot k sl).p = s.p := rfl
@[simp] theorem State.setSlot_cmd (k : SlotId) (sl : Slot) : (s.setSlot k sl).cmd = s.cmd := rfl
@[simp] theorem State.setSlot_res (k : SlotId) (sl : Slot) : (s.setSlot k sl).res = s.res := rfl
@[simp] theorem State.setSlot_rDone (k : SlotId) (sl : Slot) : (s.setSlot k sl).rDone = s.rDone := rfl
@[simp] theorem State.setSlot_rReq (k : SlotId) (sl : Slot) : (s.setSlot k sl).rReq = s.rReq := rfl
@[simp] theorem State.setSlot_rLeft (k : SlotId) (sl : Slot) : (s.setSlot k sl).rLeft = s.rLeft := rfl
@[simp] theorem State.setSlot_fault (k : SlotId) (sl : Slot) : (s.setSlot k sl).fault = s.fault := rfl
@[simp] theorem State.setSlot_faultCause (k : SlotId) (sl : Slot) : (s.setSlot k sl).faultCause = s.faultCause := rfl
@[simp] theorem State.setSlot_slots (k : SlotId) (sl : Slot) : (s.setSlot k sl).slots = s.slots.set k.val sl k.isLt := rfl
@[simp] theorem State.setSlot_tbl (k : SlotId) (sl : Slot) : (s.setSlot k sl).tbl = s.tbl := rfl
@[simp] theorem State.setSlot_mem (k : SlotId) (sl : Slot) : (s.setSlot k sl).mem = s.mem := rfl
@[simp] theorem State.setSlot_par (k : SlotId) (sl : Slot) : (s.setSlot k sl).par = s.par := rfl
@[simp] theorem State.setSlot_draws (k : SlotId) (sl : Slot) : (s.setSlot k sl).draws = s.draws := rfl
@[simp] theorem State.setSlot_seq (k : SlotId) (sl : Slot) : (s.setSlot k sl).seq = s.seq := rfl
@[simp] theorem State.setSlot_agenda (k : SlotId) (sl : Slot) : (s.setSlot k sl).agenda = s.agenda := rfl

/-! ### `State.conclude` -/

@[simp] theorem State.conclude_p (k : Option SlotId) (err : Byte) (done req : Nat) : (s.conclude k err done req).p = s.p := rfl
@[simp] theorem State.conclude_cmd (k : Option SlotId) (err : Byte) (done req : Nat) : (s.conclude k err done req).cmd = s.cmd := rfl
@[simp] theorem State.conclude_res (k : Option SlotId) (err : Byte) (done req : Nat) : (s.conclude k err done req).res = resWord err := rfl
@[simp] theorem State.conclude_rDone (k : Option SlotId) (err : Byte) (done req : Nat) : (s.conclude k err done req).rDone = BitVec.ofNat 32 done := rfl
@[simp] theorem State.conclude_rReq (k : Option SlotId) (err : Byte) (done req : Nat) : (s.conclude k err done req).rReq = BitVec.ofNat 32 req := rfl
@[simp] theorem State.conclude_rLeft (k : Option SlotId) (err : Byte) (done req : Nat) : (s.conclude k err done req).rLeft = s.resourceLeft k := rfl
@[simp] theorem State.conclude_fault (k : Option SlotId) (err : Byte) (done req : Nat) : (s.conclude k err done req).fault = s.fault := rfl
@[simp] theorem State.conclude_faultCause (k : Option SlotId) (err : Byte) (done req : Nat) : (s.conclude k err done req).faultCause = s.faultCause := rfl
@[simp] theorem State.conclude_slots (k : Option SlotId) (err : Byte) (done req : Nat) : (s.conclude k err done req).slots = s.slots := rfl
@[simp] theorem State.conclude_tbl (k : Option SlotId) (err : Byte) (done req : Nat) : (s.conclude k err done req).tbl = s.tbl := rfl
@[simp] theorem State.conclude_mem (k : Option SlotId) (err : Byte) (done req : Nat) : (s.conclude k err done req).mem = s.mem := rfl
@[simp] theorem State.conclude_par (k : Option SlotId) (err : Byte) (done req : Nat) : (s.conclude k err done req).par = s.par := rfl
@[simp] theorem State.conclude_draws (k : Option SlotId) (err : Byte) (done req : Nat) : (s.conclude k err done req).draws = s.draws := rfl
@[simp] theorem State.conclude_seq (k : Option SlotId) (err : Byte) (done req : Nat) : (s.conclude k err done req).seq = Sequencer.zero := rfl
@[simp] theorem State.conclude_agenda (k : Option SlotId) (err : Byte) (done req : Nat) : (s.conclude k err done req).agenda = s.agenda := rfl

/-! ### `State.breach` -/

@[simp] theorem State.breach_p (c : FaultCause) : (s.breach c).p = s.p := rfl
@[simp] theorem State.breach_cmd (c : FaultCause) : (s.breach c).cmd = s.cmd := rfl
@[simp] theorem State.breach_res (c : FaultCause) : (s.breach c).res = resWord codeFaulted := rfl
@[simp] theorem State.breach_rDone (c : FaultCause) : (s.breach c).rDone = s.rDone := rfl
@[simp] theorem State.breach_rReq (c : FaultCause) : (s.breach c).rReq = s.rReq := rfl
@[simp] theorem State.breach_rLeft (c : FaultCause) : (s.breach c).rLeft = s.rLeft := rfl
@[simp] theorem State.breach_fault (c : FaultCause) : (s.breach c).fault = true := rfl
@[simp] theorem State.breach_faultCause (c : FaultCause) : (s.breach c).faultCause = causeCode c := rfl
@[simp] theorem State.breach_slots (c : FaultCause) : (s.breach c).slots = s.slots := rfl
@[simp] theorem State.breach_tbl (c : FaultCause) : (s.breach c).tbl = s.tbl := rfl
@[simp] theorem State.breach_mem (c : FaultCause) : (s.breach c).mem = s.mem := rfl
@[simp] theorem State.breach_par (c : FaultCause) : (s.breach c).par = s.par := rfl
@[simp] theorem State.breach_draws (c : FaultCause) : (s.breach c).draws = s.draws := rfl
@[simp] theorem State.breach_seq (c : FaultCause) : (s.breach c).seq = s.seq := rfl
@[simp] theorem State.breach_agenda (c : FaultCause) : (s.breach c).agenda = s.agenda := rfl

/-! ### `State.endFaulted` -/

@[simp] theorem State.endFaulted_p : (s.endFaulted).p = s.p := rfl
@[simp] theorem State.endFaulted_cmd : (s.endFaulted).cmd = s.cmd := rfl
@[simp] theorem State.endFaulted_res : (s.endFaulted).res = resWord codeFaulted := rfl
@[simp] theorem State.endFaulted_rDone : (s.endFaulted).rDone = s.rDone := rfl
@[simp] theorem State.endFaulted_rReq : (s.endFaulted).rReq = s.rReq := rfl
@[simp] theorem State.endFaulted_rLeft : (s.endFaulted).rLeft = s.rLeft := rfl
@[simp] theorem State.endFaulted_fault : (s.endFaulted).fault = s.fault := rfl
@[simp] theorem State.endFaulted_faultCause : (s.endFaulted).faultCause = s.faultCause := rfl
@[simp] theorem State.endFaulted_slots : (s.endFaulted).slots = s.slots := rfl
@[simp] theorem State.endFaulted_tbl : (s.endFaulted).tbl = s.tbl := rfl
@[simp] theorem State.endFaulted_mem : (s.endFaulted).mem = s.mem := rfl
@[simp] theorem State.endFaulted_par : (s.endFaulted).par = s.par := rfl
@[simp] theorem State.endFaulted_draws : (s.endFaulted).draws = s.draws := rfl
@[simp] theorem State.endFaulted_seq : (s.endFaulted).seq = s.seq := rfl
@[simp] theorem State.endFaulted_agenda : (s.endFaulted).agenda = s.agenda := rfl

/-! ### `State.setV` -/

@[simp] theorem State.setV_p (v : Vec16) : (s.setV v).p = s.p := rfl
@[simp] theorem State.setV_cmd (v : Vec16) : (s.setV v).cmd = s.cmd := rfl
@[simp] theorem State.setV_res (v : Vec16) : (s.setV v).res = s.res := rfl
@[simp] theorem State.setV_rDone (v : Vec16) : (s.setV v).rDone = s.rDone := rfl
@[simp] theorem State.setV_rReq (v : Vec16) : (s.setV v).rReq = s.rReq := rfl
@[simp] theorem State.setV_rLeft (v : Vec16) : (s.setV v).rLeft = s.rLeft := rfl
@[simp] theorem State.setV_fault (v : Vec16) : (s.setV v).fault = s.fault := rfl
@[simp] theorem State.setV_faultCause (v : Vec16) : (s.setV v).faultCause = s.faultCause := rfl
@[simp] theorem State.setV_slots (v : Vec16) : (s.setV v).slots = s.slots := rfl
@[simp] theorem State.setV_tbl (v : Vec16) : (s.setV v).tbl = s.tbl := rfl
@[simp] theorem State.setV_mem (v : Vec16) : (s.setV v).mem = s.mem := rfl
@[simp] theorem State.setV_par (v : Vec16) : (s.setV v).par = s.par := rfl
@[simp] theorem State.setV_draws (v : Vec16) : (s.setV v).draws = s.draws := rfl
@[simp] theorem State.setV_seq (v : Vec16) : (s.setV v).seq = { s.seq with v := v } := rfl
@[simp] theorem State.setV_agenda (v : Vec16) : (s.setV v).agenda = s.agenda := rfl

/-! ### `State.hostWriteP` -/

@[simp] theorem State.hostWriteP_p (i : Fin 8) (v : Word) : (s.hostWriteP i v).p = s.p.set i.val v i.isLt := rfl
@[simp] theorem State.hostWriteP_cmd (i : Fin 8) (v : Word) : (s.hostWriteP i v).cmd = s.cmd := rfl
@[simp] theorem State.hostWriteP_res (i : Fin 8) (v : Word) : (s.hostWriteP i v).res = s.res := rfl
@[simp] theorem State.hostWriteP_rDone (i : Fin 8) (v : Word) : (s.hostWriteP i v).rDone = s.rDone := rfl
@[simp] theorem State.hostWriteP_rReq (i : Fin 8) (v : Word) : (s.hostWriteP i v).rReq = s.rReq := rfl
@[simp] theorem State.hostWriteP_rLeft (i : Fin 8) (v : Word) : (s.hostWriteP i v).rLeft = s.rLeft := rfl
@[simp] theorem State.hostWriteP_fault (i : Fin 8) (v : Word) : (s.hostWriteP i v).fault = s.fault := rfl
@[simp] theorem State.hostWriteP_faultCause (i : Fin 8) (v : Word) : (s.hostWriteP i v).faultCause = s.faultCause := rfl
@[simp] theorem State.hostWriteP_slots (i : Fin 8) (v : Word) : (s.hostWriteP i v).slots = s.slots := rfl
@[simp] theorem State.hostWriteP_tbl (i : Fin 8) (v : Word) : (s.hostWriteP i v).tbl = s.tbl := rfl
@[simp] theorem State.hostWriteP_mem (i : Fin 8) (v : Word) : (s.hostWriteP i v).mem = s.mem := rfl
@[simp] theorem State.hostWriteP_par (i : Fin 8) (v : Word) : (s.hostWriteP i v).par = s.par := rfl
@[simp] theorem State.hostWriteP_draws (i : Fin 8) (v : Word) : (s.hostWriteP i v).draws = s.draws := rfl
@[simp] theorem State.hostWriteP_seq (i : Fin 8) (v : Word) : (s.hostWriteP i v).seq = s.seq := rfl
@[simp] theorem State.hostWriteP_agenda (i : Fin 8) (v : Word) : (s.hostWriteP i v).agenda = s.agenda := rfl

/-! ### Success and error are both `State.conclude` -/

@[simp] theorem State.succeed_eq (k : Option SlotId) (done req : Nat) :
    s.succeed k done req = s.conclude k codeSuccess done req := rfl
@[simp] theorem State.raise_eq (k : Option SlotId) (e : ErrorKind) (done req : Nat) :
    s.raise k e done req = s.conclude k (errorCode e) done req := rfl

/-! ### Slots -/

@[simp] theorem State.slot_setSlot_same (k : SlotId) (sl : Slot) : (s.setSlot k sl).slot k = sl := by
  simp [State.slot, State.setSlot]

theorem State.slot_setSlot_other {k k' : SlotId} (h : k' ≠ k) (sl : Slot) : (s.setSlot k sl).slot k' = s.slot k' := by
  have h' : k.val ≠ k'.val := fun e => h (Fin.ext e.symm)
  simp [State.slot, State.setSlot, h']

@[simp] theorem State.setSlot_setSlot (k : SlotId) (a b : Slot) : (s.setSlot k a).setSlot k b = s.setSlot k b := by
  simp [State.setSlot, Vector.set_set]

@[simp] theorem State.setSlot_slot (k : SlotId) : s.setSlot k (s.slot k) = s := by
  simp [State.slot, State.setSlot]

@[simp] theorem State.slot_store (addr n : Nat) (v : List Byte) (k : SlotId) : (s.store addr n v).slot k = s.slot k := rfl
@[simp] theorem State.slot_conclude (o : Option SlotId) (err : Byte) (done req : Nat) (k : SlotId) :
    (s.conclude o err done req).slot k = s.slot k := rfl
@[simp] theorem State.slot_breach (c : FaultCause) (k : SlotId) : (s.breach c).slot k = s.slot k := rfl
@[simp] theorem State.slot_endFaulted (k : SlotId) : s.endFaulted.slot k = s.slot k := rfl
@[simp] theorem State.slot_setV (v : Vec16) (k : SlotId) : (s.setV v).slot k = s.slot k := rfl

/-! ### Reading memory -/

@[simp] theorem State.load_setSlot (k : SlotId) (sl : Slot) (addr n : Nat) :
    (s.setSlot k sl).load addr n = s.load addr n := rfl
@[simp] theorem State.load_conclude (o : Option SlotId) (err : Byte) (done req addr n : Nat) :
    (s.conclude o err done req).load addr n = s.load addr n := rfl

/-! ### The counter of a slot as `R_LEFT` -/

theorem State.resourceLeft_none : s.resourceLeft none = 0 := rfl
theorem State.resourceLeft_present {k : SlotId} (h : (s.slot k).present = true) :
    s.resourceLeft (some k) = (s.slot k).resourceCounter := by
  simp [State.resourceLeft, h]
theorem State.resourceLeft_absent {k : SlotId} (h : (s.slot k).present = false) : s.resourceLeft (some k) = 0 := by
  simp [State.resourceLeft, h]

end

end Sys2Proof.Machine
end

