-- ==== Sys2Proof/Laws/Command.lean ====
section
/-! SUPPORT. What the shared shape of every host command can do: `Faulted`, an error, a breach, a refusal, or its effect. -/

namespace Sys2Proof.Machine

/-! ### The first failing check -/

@[simp] theorem firstStop_nil : firstStop [] = none := rfl

theorem firstStop_cons (c : Check) (cs : List Check) :
    firstStop (c :: cs) = if c.fails then some c.stop else firstStop cs := rfl

theorem firstStop_append (as bs : List Check) : firstStop (as ++ bs) = (firstStop as).or (firstStop bs) := by
  induction as with
  | nil => simp
  | cons c as ih => by_cases h : c.fails <;> simp [firstStop, h, ih]

/-- No check ends the command exactly when none of them fails. -/
theorem firstStop_eq_none {cs : List Check} : firstStop cs = none ↔ ∀ c ∈ cs, c.fails = false := by
  induction cs with
  | nil => simp
  | cons c cs ih => by_cases h : c.fails <;> simp [firstStop, h, ih]

/-- A check that ends the command is one that fails. -/
theorem firstStop_mem {cs : List Check} {st : Stop} (h : firstStop cs = some st) :
    ∃ c ∈ cs, c.fails = true ∧ c.stop = st := by
  induction cs with
  | nil => simp at h
  | cons c cs ih =>
    by_cases hc : c.fails
    · simp only [firstStop, hc, if_true, Option.some.injEq] at h
      exact ⟨c, List.mem_cons_self, hc, h⟩
    · simp only [firstStop, hc] at h
      obtain ⟨d, hd, hf, hs⟩ := ih h
      exact ⟨d, List.mem_cons_of_mem _ hd, hf, hs⟩

/-! ### The command shape -/

variable {s t : State} {k : Option SlotId} {cs : List Check} {e : State}

/-- While `FAULT = 1` the command ends with `Faulted`. -/
theorem command_faulted (hf : s.fault = true) : command s k cs e = .next s.endFaulted := by simp [command, hf]

/-- A failing check ends it. -/
theorem command_stops {st : Stop} (hf : s.fault = false) (hc : firstStop cs = some st) :
    command s k cs e = s.stopAt k st := by simp [command, hf, hc]

/-- With no failing check it has its effect: this is where a command completes. -/
theorem command_passes (hf : s.fault = false) (hc : firstStop cs = none) : command s k cs e = .next e := by
  simp [command, hf, hc]

/-- Everything a command's next state can be. -/
theorem command_cases (h : command s k cs e = .next t) :
    (s.fault = true ∧ t = s.endFaulted) ∨
    (s.fault = false ∧ ∃ err req, firstStop cs = some (.error err req) ∧ t = s.raise k err 0 req) ∨
    (s.fault = false ∧ ∃ c, firstStop cs = some (.breach c) ∧ t = s.breach c) ∨
    (s.fault = false ∧ firstStop cs = none ∧ t = e) := by
  by_cases hf : s.fault
  · rw [command_faulted hf] at h
    cases h
    exact .inl ⟨hf, rfl⟩
  · rw [Bool.not_eq_true] at hf
    cases hc : firstStop cs with
    | none =>
      rw [command_passes hf hc] at h
      cases h
      exact .inr (.inr (.inr ⟨hf, rfl, rfl⟩))
    | some st =>
      rw [command_stops hf hc] at h
      cases st with
      | error err req =>
        cases h
        exact .inr (.inl ⟨hf, err, req, rfl, rfl⟩)
      | breach c =>
        cases h
        exact .inr (.inr (.inl ⟨hf, c, rfl, rfl⟩))
      | refuse r => cases h

/-- A command that no check refuses always answers a next state. -/
theorem command_answers (h : ∀ r, firstStop cs ≠ some (.refuse r)) : ∃ t, command s k cs e = .next t := by
  by_cases hf : s.fault
  · exact ⟨_, command_faulted hf⟩
  · rw [Bool.not_eq_true] at hf
    cases hc : firstStop cs with
    | none => exact ⟨_, command_passes hf hc⟩
    | some st =>
      cases st with
      | error err req => exact ⟨_, command_stops hf hc⟩
      | breach c => exact ⟨_, command_stops hf hc⟩
      | refuse r => exact absurd hc (h r)

end Sys2Proof.Machine
end

