-- ==== Sys2Proof/Laws/Memory.lean ====
section
/-! SUPPORT. The laws of memory: a read after a write, of one byte and of a byte string, and that every memory operation keeps
the canonical form. -/

namespace Sys2Proof.Machine

/-! ### One byte -/

theorem Memory.read_nil (a : Nat) : Memory.read [] a = unlistedByte := rfl

theorem Memory.read_cons (c : Host.Cell) (m : List Host.Cell) (a : Nat) :
    Memory.read (c :: m) a = if c.1 = a then c.2 else Memory.read m a := by
  by_cases h : c.1 = a <;> simp [Memory.read, h]

theorem Memory.read_filter_other {m : List Host.Cell} {a b : Nat} (h : a ≠ b) :
    Memory.read (m.filter fun c => c.1 != b) a = Memory.read m a := by
  induction m with
  | nil => rfl
  | cons c m ih =>
    by_cases hb : c.1 = b
    · have : c.1 ≠ a := fun e => h (e.symm.trans hb)
      simp [hb, Memory.read_cons, ih, h.symm]
    · simp [hb, Memory.read_cons, ih]

theorem Memory.read_filter_same (m : List Host.Cell) (b : Nat) :
    Memory.read (m.filter fun c => c.1 != b) b = unlistedByte := by
  induction m with
  | nil => rfl
  | cons c m ih =>
    by_cases hb : c.1 = b
    · simp [hb, ih]
    · simp [hb, Memory.read_cons, ih]

theorem Memory.read_insert_other {c : Host.Cell} {m : List Host.Cell} {a : Nat} (h : c.1 ≠ a) :
    Memory.read (Memory.insert c m) a = Memory.read m a := by
  induction m with
  | nil => simp [Memory.insert, Memory.read_cons, h]
  | cons d m ih =>
    by_cases hd : c.1 < d.1 <;> simp [Memory.insert, hd, Memory.read_cons, h, ih]

theorem Memory.read_insert_same {c : Host.Cell} {m : List Host.Cell} (h : ∀ d ∈ m, d.1 ≠ c.1) :
    Memory.read (Memory.insert c m) c.1 = c.2 := by
  induction m with
  | nil => simp [Memory.insert, Memory.read_cons]
  | cons d m ih =>
    by_cases hd : c.1 < d.1
    · simp [Memory.insert, hd, Memory.read_cons]
    · have h1 : d.1 ≠ c.1 := h d List.mem_cons_self
      have h2 := ih fun e he => h e (List.mem_cons_of_mem _ he)
      simp [Memory.insert, hd, Memory.read_cons, h1, h2]

/-- A read at the address just written gives the byte written. -/
theorem Memory.read_write_same (m : List Host.Cell) (a : Nat) (b : Byte) : Memory.read (Memory.write m a b) a = b := by
  unfold Memory.write
  by_cases hb : b = unlistedByte
  · simp [hb, Memory.read_filter_same]
  · simp only [hb, if_false]
    exact Memory.read_insert_same (c := (a, b)) fun d hd => by simpa using (List.mem_filter.mp hd).2

/-- A write leaves every other address alone. -/
theorem Memory.read_write_other (m : List Host.Cell) {a x : Nat} (b : Byte) (h : x ≠ a) :
    Memory.read (Memory.write m a b) x = Memory.read m x := by
  unfold Memory.write
  by_cases hb : b = unlistedByte
  · simp [hb, Memory.read_filter_other h]
  · simp only [hb, if_false]
    rw [Memory.read_insert_other (c := (a, b)) (Ne.symm h), Memory.read_filter_other h]

/-! ### Byte strings -/

/-- What a byte reads as after a byte string is stored: the string's byte inside its range, what it was outside. -/
theorem Memory.read_writeBytes (m : List Host.Cell) (addr : Nat) (bs : List Byte) (x : Nat) :
    Memory.read (Memory.writeBytes m addr bs) x =
      if h : addr ≤ x ∧ x < addr + bs.length then bs[x - addr]'(by omega) else Memory.read m x := by
  induction bs generalizing m addr with
  | nil =>
    have : ¬ (addr ≤ x ∧ x < addr + 0) := by omega
    simp only [Memory.writeBytes, List.length_nil, this, dite_false]
  | cons b bs ih =>
    rw [Memory.writeBytes, ih]
    by_cases hx : x = addr
    · subst hx
      simp [Memory.read_write_same]
    · by_cases hin : addr + 1 ≤ x ∧ x < addr + 1 + bs.length
      · have h2 : addr ≤ x ∧ x < addr + (b :: bs).length := by simp only [List.length_cons]; omega
        have h3 : x - addr = (x - (addr + 1)) + 1 := by omega
        simp only [hin, h2, and_self, dite_true]
        simp [h3]
      · have h2 : ¬ (addr ≤ x ∧ x < addr + (b :: bs).length) := by simp only [List.length_cons]; omega
        simp only [hin, h2, dite_false]
        exact Memory.read_write_other m b hx

/-- Storing changes no byte outside the stored range. -/
theorem Memory.read_writeBytes_outside (m : List Host.Cell) (addr : Nat) (bs : List Byte) {x : Nat}
    (h : x < addr ∨ addr + bs.length ≤ x) : Memory.read (Memory.writeBytes m addr bs) x = Memory.read m x := by
  have : ¬ (addr ≤ x ∧ x < addr + bs.length) := by omega
  rw [Memory.read_writeBytes]
  simp [this]

/-- What a load gives back after a store: a byte string of the asked length. -/
@[simp] theorem Memory.length_readBytes (m : List Host.Cell) (addr n : Nat) : (Memory.readBytes m addr n).length = n := by
  simp [Memory.readBytes]

/-- A load depends only on the bytes of its range. -/
theorem Memory.readBytes_congr {m m' : List Host.Cell} {addr n : Nat}
    (h : ∀ x, addr ≤ x → x < addr + n → Memory.read m x = Memory.read m' x) :
    Memory.readBytes m addr n = Memory.readBytes m' addr n := by
  apply List.map_congr_left
  intro k hk
  have := List.mem_range.mp hk
  exact h _ (by omega) (by omega)

/-- A load of the range just stored gives the string stored. -/
theorem Memory.readBytes_writeBytes (m : List Host.Cell) (addr : Nat) (bs : List Byte) :
    Memory.readBytes (Memory.writeBytes m addr bs) addr bs.length = bs := by
  apply List.ext_getElem
  · simp
  · intro i h1 h2
    have : addr ≤ addr + i ∧ addr + i < addr + bs.length := by omega
    simp [Memory.readBytes, Memory.read_writeBytes, h2]

/-! ### The canonical form -/

theorem Memory.wf_nil : Memory.wf [] = true := rfl

theorem Memory.wf_iff (m : List Host.Cell) :
    Memory.wf m = true ↔ m.Pairwise (fun c d => c.1 < d.1) ∧ ∀ c ∈ m, c.2 ≠ unlistedByte := by
  simp [Memory.wf, List.pairwise_map]

theorem Memory.mem_insert {c d : Host.Cell} {m : List Host.Cell} (h : d ∈ Memory.insert c m) : d = c ∨ d ∈ m := by
  induction m with
  | nil => simpa [Memory.insert] using h
  | cons e m ih =>
    by_cases he : c.1 < e.1
    · simpa [Memory.insert, he] using h
    · simp only [Memory.insert, he, if_false, List.mem_cons] at h
      rcases h with h | h
      · simp [h]
      · rcases ih h with h | h <;> simp [h]

theorem Memory.pairwise_insert {c : Host.Cell} {m : List Host.Cell} (hs : m.Pairwise fun a b => a.1 < b.1)
    (hc : ∀ d ∈ m, d.1 ≠ c.1) : (Memory.insert c m).Pairwise fun a b => a.1 < b.1 := by
  induction m with
  | nil => simp [Memory.insert]
  | cons e m ih =>
    rw [List.pairwise_cons] at hs
    by_cases he : c.1 < e.1
    · simp only [Memory.insert, he, if_true, List.pairwise_cons]
      refine ⟨?_, hs.1, hs.2⟩
      intro d hd
      rcases List.mem_cons.mp hd with rfl | hd
      · exact he
      · exact Nat.lt_trans he (hs.1 d hd)
    · simp only [Memory.insert, he, if_false, List.pairwise_cons]
      refine ⟨?_, ih hs.2 fun d hd => hc d (List.mem_cons_of_mem _ hd)⟩
      intro d hd
      rcases Memory.mem_insert hd with rfl | hd
      · have := hc e List.mem_cons_self
        omega
      · exact hs.1 d hd

/-- A write keeps the canonical form. -/
theorem Memory.wf_write {m : List Host.Cell} (a : Nat) (b : Byte) (h : Memory.wf m = true) :
    Memory.wf (Memory.write m a b) = true := by
  rw [Memory.wf_iff] at h ⊢
  have hs := h.1.filter fun c => c.1 != a
  unfold Memory.write
  by_cases hb : b = unlistedByte
  · simp only [hb, if_true]
    exact ⟨hs, fun c hc => h.2 c (List.mem_filter.mp hc).1⟩
  · simp only [hb, if_false]
    refine ⟨Memory.pairwise_insert hs fun d hd => by simpa using (List.mem_filter.mp hd).2, ?_⟩
    intro c hc
    rcases Memory.mem_insert hc with rfl | hc
    · exact hb
    · exact h.2 c (List.mem_filter.mp hc).1

/-- Storing a byte string keeps the canonical form. -/
theorem Memory.wf_writeBytes {m : List Host.Cell} (addr : Nat) (bs : List Byte) (h : Memory.wf m = true) :
    Memory.wf (Memory.writeBytes m addr bs) = true := by
  induction bs generalizing m addr with
  | nil => exact h
  | cons b bs ih => exact ih _ (Memory.wf_write _ _ h)

/-- Memory made from any list of cells is in canonical form. -/
theorem Memory.wf_ofCells (size : Nat) (cells : List Host.Cell) : Memory.wf (Memory.ofCells size cells) = true := by
  unfold Memory.ofCells
  generalize cells.filter _ = l
  suffices ∀ m, Memory.wf m = true → Memory.wf (l.foldl (fun m c => Memory.write m c.1 c.2) m) = true from
    this [] Memory.wf_nil
  induction l with
  | nil => exact fun m h => h
  | cons c l ih => exact fun m h => ih _ (Memory.wf_write _ _ h)

/-- The memory of the reset state is in canonical form. -/
theorem State.reset_mem_wf : Memory.wf State.reset.mem = true := rfl

/-! ### Where the listed addresses lie -/

/-- The addresses listed after a write were listed before, but for the one written. -/
theorem Memory.mem_write {m : List Host.Cell} {a : Nat} {b : Byte} {c : Host.Cell} (h : c ∈ Memory.write m a b) :
    c = (a, b) ∨ c ∈ m := by
  unfold Memory.write at h
  by_cases hb : b = unlistedByte
  · simp only [hb, if_true] at h
    exact .inr (List.mem_filter.mp h).1
  · simp only [hb, if_false] at h
    rcases Memory.mem_insert h with h | h
    · exact .inl h
    · exact .inr (List.mem_filter.mp h).1

/-- The addresses listed after storing a byte string were listed before or lie in its range. -/
theorem Memory.mem_writeBytes {m : List Host.Cell} {addr : Nat} {bs : List Byte} {c : Host.Cell}
    (h : c ∈ Memory.writeBytes m addr bs) : (addr ≤ c.1 ∧ c.1 < addr + bs.length) ∨ c ∈ m := by
  induction bs generalizing m addr with
  | nil => exact .inr h
  | cons b bs ih =>
    rcases ih h with h | h
    · simp only [List.length_cons]; omega
    · rcases Memory.mem_write h with rfl | h
      · simp
      · exact .inr h

end Sys2Proof.Machine
end

