-- ==== Sys2Proof/Laws/Block.lean ====
section
/-! SUPPORT. What a resource-checked block call, a loop of them and a derivation can do, and their frame: only the slot they
name and memory can change before a command ends. -/

namespace Sys2Proof.Machine

/-! ### Round keys and rounds -/

/-- A round key at an index that exists. -/
theorem roundKey_eq (rk : RoundKeys) (i : Fin 15) : roundKey rk i.val = rk[i] := by simp [roundKey]

/-- One more round is a round after the others, under the next key. -/
theorem forwardRounds_succ (f : Vec16 → Vec16) (rk : RoundKeys) (n i : Nat) (v : Vec16) :
    forwardRounds f rk (n + 1) i v = addRoundKey (f (forwardRounds f rk n i v)) (roundKey rk (i + n)) := by
  induction n generalizing i v with
  | zero => rfl
  | succ n ih => rw [forwardRounds, ih, forwardRounds, show i + 1 + n = i + (n + 1) by omega]

/-! ### One block call -/

/-- A call with the counter at 0 is `LowKeyResource`, and nothing has changed. -/
theorem blockCall_exhausted {dir : Direction} {k : SlotId} {b : List Byte} {j : Job}
    (h : (j.st.slot k).resourceCounter = 0) : blockCall dir k b j = .error j := by
  unfold blockCall
  rw [if_pos h]

/-- A call with the counter above 0 takes one unit and answers the block. -/
theorem blockCall_counts {dir : Direction} {k : SlotId} {b : List Byte} {j : Job}
    (h : (j.st.slot k).resourceCounter ≠ 0) :
    blockCall dir k b j =
      .ok (⟨j.st.setSlot k
              { j.st.slot k with resourceCounter := (j.st.slot k).resourceCounter - 1 }, j.done + 1⟩,
        blockOp dir j.st.par j.st.tbl (j.st.slot k) b) := by
  unfold blockCall
  rw [if_neg h]

/-- Everything a block call that ends with an error says. -/
theorem blockCall_error {dir : Direction} {k : SlotId} {b : List Byte} {j j' : Job}
    (h : blockCall dir k b j = .error j') : j' = j ∧ (j.st.slot k).resourceCounter = 0 := by
  by_cases hc : (j.st.slot k).resourceCounter = 0
  · rw [blockCall_exhausted hc] at h
    cases h
    exact ⟨rfl, hc⟩
  · rw [blockCall_counts hc] at h
    cases h

/-- Everything a block call that answers says. -/
theorem blockCall_ok {dir : Direction} {k : SlotId} {b c : List Byte} {j j' : Job}
    (h : blockCall dir k b j = .ok (j', c)) :
    (j.st.slot k).resourceCounter ≠ 0 ∧ j'.done = j.done + 1 ∧
    j'.st = j.st.setSlot k { j.st.slot k with resourceCounter := (j.st.slot k).resourceCounter - 1 } ∧
    c = blockOp dir j.st.par j.st.tbl (j.st.slot k) b := by
  by_cases hc : (j.st.slot k).resourceCounter = 0
  · rw [blockCall_exhausted hc] at h
    cases h
  · rw [blockCall_counts hc] at h
    cases h
    exact ⟨hc, rfl, rfl, rfl⟩

/-- The block operation does not read the counter, the IV or the key itself: it depends on the kind and the round keys. -/
theorem blockOp_congr {dir : Direction} {par : Params} {tbl : TableSet} {a b : Slot} (hk : a.kind = b.kind)
    (hr : a.rk = b.rk) (hn : a.nrk = b.nrk) (x : List Byte) : blockOp dir par tbl a x = blockOp dir par tbl b x := by
  cases dir <;> simp [blockOp, encryptBlock, decryptBlock, hk, hr, hn]

/-! ### The frame of a command at work -/

/-- `t` differs from `s` at most in slot `k` and in memory. -/
def State.OnlySlotAndMem (k : SlotId) (s t : State) : Prop := ∃ sl m, t = { s.setSlot k sl with mem := m }

theorem State.OnlySlotAndMem.refl (k : SlotId) (s : State) : State.OnlySlotAndMem k s s :=
  ⟨s.slot k, s.mem, by rw [State.setSlot_slot]⟩

theorem State.OnlySlotAndMem.setSlot {k : SlotId} {s t : State} (h : State.OnlySlotAndMem k s t) (sl : Slot) :
    State.OnlySlotAndMem k s (t.setSlot k sl) := by
  obtain ⟨sl0, m, rfl⟩ := h
  exact ⟨sl, m, by simp [State.setSlot, Vector.set_set]⟩

theorem State.OnlySlotAndMem.store {k : SlotId} {s t : State} (h : State.OnlySlotAndMem k s t) (addr n : Nat)
    (v : List Byte) : State.OnlySlotAndMem k s (t.store addr n v) := by
  obtain ⟨sl0, m, rfl⟩ := h
  exact ⟨sl0, Memory.writeBytes m addr (v.take n), rfl⟩

/-- Every field but the slots and memory. -/
theorem State.OnlySlotAndMem.fields {k : SlotId} {s t : State} (h : State.OnlySlotAndMem k s t) :
    t.p = s.p ∧ t.cmd = s.cmd ∧ t.fault = s.fault ∧ t.faultCause = s.faultCause ∧ t.tbl = s.tbl ∧ t.par = s.par ∧
    t.draws = s.draws ∧ t.agenda = s.agenda := by
  obtain ⟨sl0, m, rfl⟩ := h
  simp

/-- Every other slot. -/
theorem State.OnlySlotAndMem.other {k k' : SlotId} {s t : State} (h : State.OnlySlotAndMem k s t) (hk : k' ≠ k) :
    t.slot k' = s.slot k' := by
  obtain ⟨sl0, m, rfl⟩ := h
  exact State.slot_setSlot_other s hk sl0

theorem blockCall_frame {dir : Direction} {k : SlotId} {b : List Byte} {s : State} {j j' : Job} {c : List Byte}
    (hj : State.OnlySlotAndMem k s j.st) (h : blockCall dir k b j = .ok (j', c)) :
    State.OnlySlotAndMem k s j'.st := by
  rw [(blockCall_ok h).2.2.1]
  exact hj.setSlot _

/-! ### Loops -/

/-- What every body keeps, the loop keeps, whether it ends or is ended by `LowKeyResource`. -/
theorem blocksLoop_keeps {body : Nat → Job → Except Job Job} {P : Job → Prop}
    (hok : ∀ i j j', P j → body i j = .ok j' → P j') (herr : ∀ i j j', P j → body i j = .error j' → P j') :
    ∀ (n i : Nat) (j : Job), P j →
      (∀ j', blocksLoop body n i j = .ok j' → P j') ∧ (∀ j', blocksLoop body n i j = .error j' → P j') := by
  intro n
  induction n with
  | zero => intro i j hj; exact ⟨fun j' h => (by cases h; exact hj), fun j' h => (by cases h)⟩
  | succ n ih =>
    intro i j hj
    cases hb : body i j with
    | error j1 =>
      simp only [blocksLoop, hb]
      exact ⟨fun j' h => (by cases h), fun j' h => (by cases h; exact herr i j _ hj hb)⟩
    | ok j1 =>
      simp only [blocksLoop, hb]
      exact ih (i + 1) j1 (hok i j j1 hj hb)

/-- The loop of a derivation keeps what a block call keeps. -/
theorem derivationLoop_frame {k : SlotId} {bs : Nat} {s : State} :
    ∀ (n i : Nat) (buf : List Byte) (j : Job), State.OnlySlotAndMem k s j.st →
      (∀ j' b, derivationLoop k bs n i buf j = .ok (j', b) → State.OnlySlotAndMem k s j'.st) ∧
      (∀ j', derivationLoop k bs n i buf j = .error j' → State.OnlySlotAndMem k s j'.st) := by
  intro n
  induction n with
  | zero => intro i buf j hj; exact ⟨fun j' b h => (by cases h; exact hj), fun j' h => (by cases h)⟩
  | succ n ih =>
    intro i buf j hj
    cases hb : blockCall .encrypt k (acpkmBlock j.st.par.profile bs i) j with
    | error j1 =>
      simp only [derivationLoop, hb]
      exact ⟨fun j' b h => (by cases h), fun j' h => (by cases h; rw [(blockCall_error hb).1]; exact hj)⟩
    | ok r =>
      simp only [derivationLoop, hb]
      exact ih (i + 1) (buf ++ r.2) r.1 (blockCall_frame hj hb)

/-- A derivation changes at most its slot. -/
theorem deriveNext_frame {k : SlotId} {s : State} {j : Job} (hj : State.OnlySlotAndMem k s j.st) :
    (∀ j', deriveNext k j = .ok j' → State.OnlySlotAndMem k s j'.st) ∧
    (∀ j', deriveNext k j = .error j' → State.OnlySlotAndMem k s j'.st) := by
  unfold deriveNext
  simp only
  split
  · exact ⟨fun j' h => (by cases h), fun j' h => (by cases h; exact hj)⟩
  · have hl := derivationLoop_frame (k := k) (bs := (j.st.slot k).bs) (s := s) (j.st.slot k).derivationBlocks 0 [] j hj
    cases hd : derivationLoop k (j.st.slot k).bs (j.st.slot k).derivationBlocks 0 [] j with
    | error j1 => exact ⟨fun j' h => (by cases h), fun j' h => (by cases h; exact hl.2 _ hd)⟩
    | ok r => exact ⟨fun j' h => (by cases h; exact (hl.1 _ _ hd).setSlot _), fun j' h => (by cases h)⟩

/-! ### How it ends -/

/-- The state in which a command with block calls ends, whatever its result. -/
theorem finishJob_ends (k : SlotId) (req : Nat) (r : Except Job Job) :
    ∃ j err, (r = .ok j ∧ err = codeSuccess ∨ r = .error j ∧ err = errorCode .lowKeyResource) ∧
      finishJob k req r = j.st.conclude (some k) err j.done req := by
  cases r with
  | ok j => exact ⟨j, _, .inl ⟨rfl, rfl⟩, rfl⟩
  | error j => exact ⟨j, _, .inr ⟨rfl, rfl⟩, rfl⟩

end Sys2Proof.Machine
end

