-- ==== Sys2Proof/Laws/Field.lean ====
section
/-! SUPPORT. The first laws of field elements, of the sum of sixteen of them and of the identity matrix. -/

namespace Sys2Proof

/-- A product with 0 on the right. -/
@[simp] theorem gfMul_zero_right (poly : BitVec 9) (a : Byte) : gfMul poly a 0#8 = 0#8 := by
  simp [gfMul, gfMulLoop]

/-- A product with 0 on the left. -/
@[simp] theorem gfMul_zero_left (poly : BitVec 9) (b : Byte) : gfMul poly 0#8 b = 0#8 := by
  simp [gfMul, gfMulLoop, gfDouble]

/-- The sum written out. -/
theorem xorSum_eq (f : Fin 16 → Byte) :
    xorSum f = f 0 ^^^ f 1 ^^^ f 2 ^^^ f 3 ^^^ f 4 ^^^ f 5 ^^^ f 6 ^^^ f 7 ^^^ f 8 ^^^ f 9 ^^^ f 10 ^^^ f 11 ^^^ f 12 ^^^
      f 13 ^^^ f 14 ^^^ f 15 := by
  simp [xorSum, gfAdd, List.finRange_succ]

/-- The sum of zeros. -/
@[simp] theorem xorSum_zero : xorSum (fun _ => 0#8) = 0#8 := by simp [xorSum_eq]

/-- A sum with one nonzero term is that term. -/
theorem xorSum_single {f : Fin 16 → Byte} (j : Fin 16) (h : ∀ i, i ≠ j → f i = 0) : xorSum f = f j := by
  rw [xorSum_eq]
  fin_cases j <;> simp [h]

@[simp] theorem unitVec_get (j : Fin 16) (i : Nat) (hi : i < 16) :
    (unitVec j)[i] = if i = j.val then 1#8 else 0#8 := by
  simp [unitVec, Fin.ext_iff]

@[simp] theorem identity16_get (i j : Nat) (hi : i < 16) (hj : j < 16) :
    (identity16[i])[j] = if j = i then 1#8 else 0#8 := by
  simp [identity16]

@[simp] theorem lookup_ofFn {α : Type} (f : Fin 256 → α) (x : Byte) : lookup (Vector.ofFn f) x = f x.toFin := by
  simp [lookup]

end Sys2Proof
end

