-- ==== Sys2Proof/Laws/Params.lean ====
section
/-! SUPPORT. What well-formed parameters give, when a profile is `PROFILE_AES`, and what the two shapes of a micro-operation can
do. -/

namespace Sys2Proof

/-- Comparing row by row is comparing. -/
theorem sameBytes_iff (n : Nat) (a b : List Byte) : sameBytes n a b = true ↔ a = b := by
  induction n generalizing a b with
  | zero => simp [sameBytes]
  | succ n ih =>
    simp only [sameBytes, Bool.and_eq_true, beq_iff_eq, ih]
    refine ⟨fun ⟨h, h'⟩ => ?_, fun h => h ▸ ⟨rfl, rfl⟩⟩
    rw [← List.take_append_drop 16 a, h, h', List.take_append_drop]

/-- The profile that the check admits is `PROFILE_AES` and no other. -/
theorem Profile.isAes_iff (prf : Profile) : prf.isAes = true ↔ prf = profileAes := by
  refine ⟨fun h => ?_, fun h => h ▸ by decide +kernel⟩
  simp only [Profile.isAes, Bool.and_eq_true, beq_iff_eq, sameBytes_iff, Vector.toList_inj] at h
  obtain ⟨⟨⟨⟨⟨⟨⟨⟨⟨hpoly, hexpand⟩, hlin⟩, hperm⟩, hlinc⟩, hpermc⟩, hlast⟩, hsizes⟩, hlen⟩, hacpkm⟩ := h
  cases prf
  simp only at hpoly hexpand hlin hperm hlinc hpermc hlast hsizes hlen hacpkm
  subst hpoly hexpand hlin hperm hlinc hpermc hlast hsizes hlen hacpkm
  rfl

/-- `1 <= MEM_SIZE <= 2^32` (92_eei_decisions.md D5). -/
theorem Params.memSize_bounds (par : Params) : 1 ≤ par.memSize ∧ par.memSize ≤ 2 ^ 32 := by
  have := par.lastAddress.isLt
  simp only [Params.memSize]
  omega

namespace Machine

/-- Under well-formed parameters every accepted key fits the key field. -/
theorem WfParams.keySizesOk {par : Params} (h : WfParams par) : KeySizesOk par := by
  refine ⟨fun n hn => ?_, fun n hn => ?_⟩
  · obtain ⟨z, hz, rfl⟩ := List.mem_map.mp hn
    exact (h.profile.sizes z hz).1
  · cases ha : par.alg8 with
    | none => simp [keyLengths, ha] at hn
    | some a => exact h.alg8 a ha n (by simpa [keyLengths, ha] using hn)

variable {s : State}

/-- A table-reading operation on valid tables writes its result. -/
@[simp] theorem State.setTableV_of_valid (h : s.tbl.valid = true) (v : Vec16) : s.setTableV v = s.setV v := by
  simp [State.setTableV, h]

/-- A table-reading operation on invalid tables writes a free value. -/
@[simp] theorem State.setTableV_of_invalid (h : s.tbl.valid = false) (v : Vec16) :
    s.setTableV v = { s.setV (Config.unspecifiedVec s.draws) with draws := s.draws + 1 } := by
  simp [State.setTableV, h]

/-- A micro-operation of the AES profile under that profile. -/
theorem aesStage_of_aes (h : s.par.profile = profileAes) (f : Vec16 → Vec16) :
    aesStage f s = .next (s.setV (f s.seq.v)) := by
  simp [aesStage, (Profile.isAes_iff _).mpr h]

/-- A micro-operation of the AES profile under another one. -/
theorem aesStage_of_other (h : s.par.profile ≠ profileAes) (f : Vec16 → Vec16) :
    aesStage f s = .refused .aesProfileOnly := by
  have : s.par.profile.isAes = false := by simpa using mt (Profile.isAes_iff _).mp h
  simp [aesStage, this]

end Machine
end Sys2Proof
end

