-- ==== Sys2Proof/Laws/PerInstr.lean ====
section
/-! SUPPORT. A statement about every instruction as it is written, one lemma per constructor: an instruction is encoded as a
command word exactly when the host can issue it (30_encoding.md R85, R86). -/

namespace Sys2Proof.Laws.HostForm

/-- The instruction's code is a command word exactly when it is one of the 18 host commands. -/
def Statement (i : Instr) : Prop := (∃ w, encode i = .command w) ↔ i.hostIssuable = true

/-- A constructor whose code is a command word. -/
theorem of_command {i : Instr} {w : BitVec 32} (h : encode i = .command w) (hi : i.hostIssuable = true) : Statement i :=
  ⟨fun _ => hi, fun _ => ⟨w, h⟩⟩

/-- A constructor whose code is internal. -/
theorem of_internal {i : Instr} (h : ∀ w, encode i ≠ .command w) (hi : i.hostIssuable = false) : Statement i :=
  ⟨fun ⟨w, hw⟩ => absurd hw (h w), fun hc => by rw [hi] at hc; exact absurd hc (by decide)⟩

theorem genMatrix : Statement .genMatrix := of_command rfl rfl
theorem invMatrix : Statement .invMatrix := of_command rfl rfl
theorem invPerm : Statement .invPerm := of_command rfl rfl
theorem initTables : Statement .initTables := of_command rfl rfl
theorem initDefault (variant : Variant) : Statement (.initDefault variant) := by cases variant <;> exact of_command rfl rfl
theorem create (slot : SlotId) (blockSize : Nat) : Statement (.create slot blockSize) := of_command rfl rfl
theorem bind (slot : SlotId) (kind : BindKind) : Statement (.bind slot kind) := by cases kind <;> exact of_command rfl rfl
theorem setKey (slot : SlotId) : Statement (.setKey slot) := of_command rfl rfl
theorem setKeyRandom (slot : SlotId) (keyLen : Nat) : Statement (.setKeyRandom slot keyLen) := of_command rfl rfl
theorem deriveNext (slot : SlotId) : Statement (.deriveNext slot) := of_command rfl rfl
theorem destroy (slot : SlotId) : Statement (.destroy slot) := of_command rfl rfl
theorem ecbEnc (slot : SlotId) : Statement (.ecbEnc slot) := of_command rfl rfl
theorem ecbDec (slot : SlotId) : Statement (.ecbDec slot) := of_command rfl rfl
theorem cbcEnc (slot : SlotId) : Statement (.cbcEnc slot) := of_command rfl rfl
theorem cbcDec (slot : SlotId) : Statement (.cbcDec slot) := of_command rfl rfl
theorem ctr (slot : SlotId) : Statement (.ctr slot) := of_command rfl rfl
theorem ctrAcpkm (slot : SlotId) : Statement (.ctrAcpkm slot) := of_command rfl rfl
theorem cmac (slot : SlotId) : Statement (.cmac slot) := of_command rfl rfl
theorem encryptBlock : Statement .encryptBlock := of_internal (fun _ h => nomatch h) rfl
theorem decryptBlock : Statement .decryptBlock := of_internal (fun _ h => nomatch h) rfl
theorem scheduleKeys : Statement .scheduleKeys := of_internal (fun _ h => nomatch h) rfl
theorem eraseKeys : Statement .eraseKeys := of_internal (fun _ h => nomatch h) rfl
theorem addRoundKey : Statement .addRoundKey := of_internal (fun _ h => nomatch h) rfl
theorem subBytes : Statement .subBytes := of_internal (fun _ h => nomatch h) rfl
theorem linear : Statement .linear := of_internal (fun _ h => nomatch h) rfl
theorem linearLast : Statement .linearLast := of_internal (fun _ h => nomatch h) rfl
theorem invSubBytes : Statement .invSubBytes := of_internal (fun _ h => nomatch h) rfl
theorem invLinear : Statement .invLinear := of_internal (fun _ h => nomatch h) rfl
theorem invLinearLast : Statement .invLinearLast := of_internal (fun _ h => nomatch h) rfl
theorem roundT : Statement .roundT := of_internal (fun _ h => nomatch h) rfl
theorem invRoundT : Statement .invRoundT := of_internal (fun _ h => nomatch h) rfl
theorem shiftRows : Statement .shiftRows := of_internal (fun _ h => nomatch h) rfl
theorem mixColumns : Statement .mixColumns := of_internal (fun _ h => nomatch h) rfl
theorem invShiftRows : Statement .invShiftRows := of_internal (fun _ h => nomatch h) rfl
theorem invMixColumns : Statement .invMixColumns := of_internal (fun _ h => nomatch h) rfl
theorem lfsrStep : Statement .lfsrStep := of_internal (fun _ h => nomatch h) rfl

end Sys2Proof.Laws.HostForm
end

