-- ==== Sys2Proof/Tests/Slice0.lean ====
section
/-! SUPPORT. Tests of the model against values of spec/ (each names its vector or rule), the smoke test of WellFormed, the decoding of
every constructor from a word written out by hand, and for every statement with hypotheses a witness that meets them. -/

namespace Sys2Proof.Tests

-- One theorem after the other: elaborated side by side, the theorems below that wait for the kernel each hold a thread and its stack.
set_option Elab.async false

open Sys2Proof.Machine

/-! ### WellFormed: an ill-formed term for each check -/

theorem test_wellFormed_refuses_wide_blockSize : (Instr.create 3 65536).wellFormed = false := by decide
theorem test_wellFormed_refuses_wide_keyLen : (Instr.setKeyRandom 3 65536).wellFormed = false := by decide
theorem test_wellFormed_admits_the_widest : (Instr.create 15 65535).wellFormed = true := by decide

/-! ### Decoding: every constructor by a word written from R81, R85 and R86 -/

/-- Format T and Z: only `op`, and `sel` of `INIT_DEFAULT`. -/
theorem test_decode_builder :
    decode (.command 0x00000001) = .ok .genMatrix ∧ decode (.command 0x00000002) = .ok .invMatrix ∧
    decode (.command 0x00000003) = .ok .invPerm ∧ decode (.command 0x00000004) = .ok .initTables ∧
    decode (.command 0x00000005) = .ok (.initDefault .standard) ∧
    decode (.command 0x00001005) = .ok (.initDefault .compat) := by decide

/-- Format S and SK; the words of R131 to R134 and R138, and `B8` and `B16P` by their `sel`. -/
theorem test_decode_key_object :
    decode (.command 0x00100310) = .ok (.create 3 16) ∧ decode (.command 0x00080F10) = .ok (.create 15 8) ∧
    decode (.command 0x00001311) = .ok (.bind 3 .b8) ∧ decode (.command 0x00002311) = .ok (.bind 3 .b16t) ∧
    decode (.command 0x00003311) = .ok (.bind 3 .b16p) ∧ decode (.command 0x00000312) = .ok (.setKey 3) ∧
    decode (.command 0x00000313) = .ok (.setKeyRandom 3 0) ∧ decode (.command 0x00200313) = .ok (.setKeyRandom 3 32) ∧
    decode (.command 0x00000414) = .ok (.deriveNext 4) ∧ decode (.command 0x00000315) = .ok (.destroy 3) := by decide

/-- Format M, with different slots. -/
theorem test_decode_modes :
    decode (.command 0x00000020) = .ok (.ecbEnc 0) ∧ decode (.command 0x00000121) = .ok (.ecbDec 1) ∧
    decode (.command 0x00000222) = .ok (.cbcEnc 2) ∧ decode (.command 0x00000423) = .ok (.cbcDec 4) ∧
    decode (.command 0x00000824) = .ok (.ctr 8) ∧ decode (.command 0x00000E25) = .ok (.ctrAcpkm 14) ∧
    decode (.command 0x00000F26) = .ok (.cmac 15) := by decide

/-- The codes of R86. -/
theorem test_decode_internal :
    [0, 1, 2, 3].map (fun c => decode (.entry c)) =
      [.ok .encryptBlock, .ok .decryptBlock, .ok .scheduleKeys, .ok .eraseKeys] ∧
    [0x0, 0x1, 0x2, 0x3, 0x4, 0x5, 0x6].map (fun c => decode (.micro c)) =
      [.ok .addRoundKey, .ok .subBytes, .ok .linear, .ok .linearLast, .ok .invSubBytes, .ok .invLinear,
        .ok .invLinearLast] ∧
    [0x7, 0x8, 0x9, 0xA, 0xB, 0xC, 0xD].map (fun c => decode (.micro c)) =
      [.ok .roundT, .ok .invRoundT, .ok .shiftRows, .ok .mixColumns, .ok .invShiftRows, .ok .invMixColumns,
        .ok .lfsrStep] ∧
    [0xE, 0xF].map (fun c => decode (.micro c)) = [.error .unassignedMicro, .error .unassignedMicro] := by decide

/-- Illegal words (R90): reserved `op`, a must-be-zero field, a selector out of range. -/
theorem test_decode_illegal :
    [0x00, 0x06, 0x0F, 0x16, 0x1F, 0x27, 0xFF].map (fun w => decodeCommand w) = List.replicate 7 (.error .illegalOp) ∧
    [0x00000101, 0x00001001, 0x00010001, 0x00001012, 0x00010020, 0x00001310].map (fun w => decodeCommand w) =
      List.replicate 6 (.error .reservedFieldSet) ∧
    [0x00002005, 0x00000011, 0x00004011, 0x0000F311].map (fun w => decodeCommand w) =
      List.replicate 4 (.error .badSelector) := by decide

/-- The opcode table's numbering: a command word, a 2-bit code, a 4-bit code. -/
theorem test_decodeTableWord :
    decodeTableWord 32 0x00100310 = some (.create 3 16) ∧ decodeTableWord 2 3 = some .eraseKeys ∧
    decodeTableWord 4 0xA = some .mixColumns ∧ decodeTableWord 8 0xD = some .lfsrStep ∧
    decodeTableWord 32 0x00000027 = none := by decide

/-! ### Values of spec/ -/

/-- V1 to V6. -/
theorem test_gfMul_vectors :
    gfMul 0x11B 0x57 0x83 = 0xc1 ∧ gfMul 0x11B 0x57 0x13 = 0xfe ∧ gfMul 0x11B 0x02 0x80 = 0x1b ∧
    gfMul 0x1C3 0x02 0x80 = 0xc3 ∧ gfMul 0x1C3 0xc2 0x02 = 0x47 ∧ gfMul 0x11B 0xff 0xff = 0x13 ∧
    gfMul 0x1C3 0xff 0xff = 0x06 := by decide +kernel

/-- V7, V8: one inverse under each polynomial. -/
theorem test_gfInv_vectors : gfInv 0x11B 0xff = 0x1c ∧ gfInv 0x1C3 0x53 = 0x0d := by decide +kernel

/-- A state for the micro-operations: the two vectors in the latches, the tables of the AES profile, no round tables. -/
def stageState (v k : Vec16) : State :=
  { State.reset with
    seq := ⟨0, v, k⟩
    tbl := { TableSet.zero with valid := true, mat := matrixAes, perm := sboxAes } }

/-- Latch `v` after an instruction, zero where it does not answer a next state. -/
def latchAfter (i : Instr) (s : State) : Vec16 :=
  match exec i s with
  | .next t => t.seq.v
  | .fault _ => Vec16.zero
  | .refused _ => Vec16.zero

/-- V33. -/
theorem test_addRoundKey :
    latchAfter .addRoundKey (stageState
      #v[0x00, 0x11, 0x22, 0x33, 0x44, 0x55, 0x66, 0x77, 0x88, 0x99, 0xaa, 0xbb, 0xcc, 0xdd, 0xee, 0xff]
      #v[0x00, 0x01, 0x02, 0x03, 0x04, 0x05, 0x06, 0x07, 0x08, 0x09, 0x0a, 0x0b, 0x0c, 0x0d, 0x0e, 0x0f]) =
      #v[0x00, 0x10, 0x20, 0x30, 0x40, 0x50, 0x60, 0x70, 0x80, 0x90, 0xa0, 0xb0, 0xc0, 0xd0, 0xe0, 0xf0] := by
  decide +kernel

/-- The vector after the first substitution of FIPS-197 C.1, V34. -/
def afterSub1 : Vec16 :=
  #v[0x63, 0xca, 0xb7, 0x04, 0x09, 0x53, 0xd0, 0x51, 0xcd, 0x60, 0xe0, 0xe7, 0xba, 0x70, 0xe1, 0x8c]

/-- The vector after the first linear layer of FIPS-197 C.1, V36. -/
def afterLin1 : Vec16 :=
  #v[0x5f, 0x72, 0x64, 0x15, 0x57, 0xf5, 0xbc, 0x92, 0xf7, 0xbe, 0x3b, 0x29, 0x1d, 0xb9, 0xf9, 0x1a]

/-- The vector between `SHIFT_ROWS` and `MIX_COLUMNS`, V35. -/
def afterShift1 : Vec16 :=
  #v[0x63, 0x53, 0xe0, 0x8c, 0x09, 0x60, 0xe1, 0x04, 0xcd, 0x70, 0xb7, 0x51, 0xba, 0xca, 0xd0, 0xe7]

/-- V34. -/
theorem test_subBytes :
    latchAfter .subBytes (stageState
      #v[0x00, 0x10, 0x20, 0x30, 0x40, 0x50, 0x60, 0x70, 0x80, 0x90, 0xa0, 0xb0, 0xc0, 0xd0, 0xe0, 0xf0] Vec16.zero) =
      afterSub1 := by decide +kernel

/-- V35, V39: `SHIFT_ROWS`, and `LINEAR_LAST` of this profile. -/
theorem test_shiftRows :
    latchAfter .shiftRows (stageState afterSub1 Vec16.zero) = afterShift1 ∧
    latchAfter .linearLast (stageState afterSub1 Vec16.zero) = afterShift1 := by decide +kernel

/-- V36. -/
theorem test_mixColumns : latchAfter .mixColumns (stageState afterShift1 Vec16.zero) = afterLin1 := by decide +kernel

/-- V37. -/
theorem test_linear : latchAfter .linear (stageState afterSub1 Vec16.zero) = afterLin1 := by decide +kernel

/-- V38. -/
theorem test_inverse_aes_stages :
    latchAfter .invMixColumns (stageState afterLin1 Vec16.zero) = afterShift1 ∧
    latchAfter .invShiftRows (stageState afterShift1 Vec16.zero) = afterSub1 ∧
    latchAfter .invLinearLast (stageState afterShift1 Vec16.zero) = afterSub1 := by decide +kernel

/-- V10, the first two steps. -/
theorem test_lfsrStep :
    lfsrStep 0x1C3 (unitVec 14) tapsGost = #v[0x94, 0, 0, 0, 0, 0, 0, 0, 0, 0, 0, 0, 0, 0, 0, 0x01] ∧
    lfsrStep 0x1C3 #v[0x94, 0, 0, 0, 0, 0, 0, 0, 0, 0, 0, 0, 0, 0, 0, 0x01] tapsGost =
      #v[0xa5, 0x94, 0, 0, 0, 0, 0, 0, 0, 0, 0, 0, 0, 0, 0, 0] := by decide +kernel

/-- V43: `rk[1]` of the AES key `2b7e151628aed2a6abf7158809cf4f3c`. -/
theorem test_expandAes :
    (expandAes profileAes (stageState Vec16.zero Vec16.zero).tbl
      [0x2b, 0x7e, 0x15, 0x16, 0x28, 0xae, 0xd2, 0xa6, 0xab, 0xf7, 0x15, 0x88, 0x09, 0xcf, 0x4f, 0x3c] 1).getD 1 Vec16.zero =
      #v[0xa0, 0xfa, 0xfe, 0x17, 0x88, 0x54, 0x2c, 0xb1, 0x23, 0xa3, 0x39, 0x39, 0x2a, 0x6c, 0x76, 0x05] := by
  decide +kernel

/-- The example of R200 with a carry, and of R193. -/
theorem test_block_numbers :
    doubleBlock 16 [0xfb, 0xee, 0xd6, 0x18, 0x35, 0x71, 0x33, 0x66, 0x7c, 0x85, 0xe0, 0x8f, 0x72, 0x36, 0xa8, 0xde] =
      [0xf7, 0xdd, 0xac, 0x30, 0x6a, 0xe2, 0x66, 0xcc, 0xf9, 0x0b, 0xc1, 0x1e, 0xe4, 0x6d, 0x51, 0x3b] ∧
    incBlock [0xfe, 0xff, 0xff] = [0xff, 0x00, 0x00] ∧ incBlock [0xff, 0xff] = [0x00, 0x00] := by decide

/-- R199: three bytes padded to a block of 8, and the empty block. -/
theorem test_padBlock :
    padBlock 8 [1, 2, 3] = [1, 2, 3, 0x80, 0, 0, 0, 0] ∧ padBlock 8 [] = [0x80, 0, 0, 0, 0, 0, 0, 0] := by decide

/-! ### One command on a small state -/

/-- The code in `RES.err`, and `FAULT_CAUSE`, after an instruction; 0xDEAD where it does not answer a next state. -/
def errAfter (i : Instr) (s : State) : Nat × Nat :=
  match exec i s with
  | .next t => (t.res.toNat, t.faultCause.toNat)
  | .fault _ => (0xDEAD, 0)
  | .refused _ => (0xDEAD, 1)

/-- A keyed slot of kind `B16P` with a counter of 100. Its round keys are zero. -/
def keyedSlot : Slot :=
  { Slot.zero with
    present := true
    blockSize := 16
    kind := .b16p
    keySet := true
    keyLen := 16
    nrk := 11
    resourceCounter := 100 }

/-- The reset state with a slot 0, the operand registers of a mode, and the flag that the tables are valid. -/
def withSlot (sl : Slot) (p : Vector Word 8) : State :=
  { State.reset with
    slots := State.reset.slots.set 0 sl
    p := p
    tbl := { TableSet.zero with valid := true } }

/-- Two blocks in place at 0x100, an IV at 0x200, `P6 = 8`. -/
def readyState : State := withSlot keyedSlot #v[0x100, 32, 0x100, 32, 0x200, 16, 8, 0]

/-- R131: success on an absent slot; V61: a block size of 0 or 32, an occupied slot. -/
theorem test_create :
    errAfter (.create 1 8) readyState = (0, 0) ∧ errAfter (.create 1 0) readyState = (12, 0) ∧
    errAfter (.create 1 32) readyState = (12, 0) ∧ errAfter (.create 0 16) readyState = (12, 0) := by decide

/-- R132: before the tables are valid, and a second `BIND`. -/
theorem test_bind :
    errAfter (.bind 0 .b16t) readyState = (6, 0) ∧
    errAfter (.bind 0 .b16t) { withSlot { Slot.zero with present := true, blockSize := 16 } readyState.p with
      tbl := TableSet.zero } = (6, 0) ∧
    errAfter (.bind 0 .b16t) (withSlot { Slot.zero with present := true, blockSize := 16 } readyState.p) = (0, 0) ∧
    errAfter (.bind 0 .b8) (withSlot { Slot.zero with present := true, blockSize := 8 } readyState.p) = (0xDEAD, 1) := by
  decide

/-- R133: a zero-length key is `WrongKeyLength`; a null key pointer; a key past the end of memory. -/
theorem test_setKey_errors :
    errAfter (.setKey 0) (withSlot keyedSlot #v[0, 0, 0, 0, 0, 0, 0, 0]) = (3, 0) ∧
    errAfter (.setKey 0) (withSlot keyedSlot #v[0, 16, 0, 0, 0, 0, 0, 0]) = (1, 0) ∧
    errAfter (.setKey 0) (withSlot keyedSlot #v[0xFFF1, 16, 0, 0, 0, 0, 0, 0]) = (0xFE, 1) := by decide

/-- R134 (no draw for an unaccepted length), R137 (counter below `J`). -/
theorem test_random_and_derive_errors :
    errAfter (.setKeyRandom 0 17) readyState = (3, 0) ∧
    errAfter (.deriveNext 0) (withSlot { keyedSlot with resourceCounter := 0 } readyState.p) = (8, 0) ∧
    errAfter (.deriveNext 1) readyState = (1, 0) := by decide

/-- R138: `DESTROY` zeroes a slot and is no error on an absent one. -/
theorem test_destroy :
    (match exec (.destroy 0) readyState with
      | .next t => decide (t.slot 0 = Slot.zero)
      | .fault _ => false
      | .refused _ => false) = true ∧ errAfter (.destroy 5) readyState = (0, 0) := by decide +kernel

/-- R180: each mode's own error. -/
theorem test_mode_errors :
    errAfter (.ecbEnc 0) (withSlot keyedSlot #v[0x100, 31, 0x100, 32, 0, 0, 0, 0]) = (4, 0) ∧
    errAfter (.ecbDec 0) (withSlot { keyedSlot with keySet := false } readyState.p) = (9, 0) ∧
    errAfter (.cbcEnc 0) (withSlot keyedSlot #v[0x100, 32, 0x100, 32, 0x200, 32, 0, 0]) = (5, 0) ∧
    errAfter (.cbcDec 0) (withSlot keyedSlot #v[0x100, 32, 0x108, 32, 0x200, 16, 0, 0]) = (0xFE, 3) ∧
    errAfter (.ctr 0) (withSlot keyedSlot #v[0x100, 5, 0x100, 5, 0x200, 17, 0, 0]) = (5, 0) ∧
    errAfter (.ctrAcpkm 0) (withSlot keyedSlot #v[0x100, 5, 0x100, 5, 0x200, 8, 0, 0]) = (2, 0) ∧
    errAfter (.cmac 0) (withSlot keyedSlot #v[0x100, 5, 0x300, 32, 0, 0, 17, 0]) = (7, 0) := by decide

/-- V14: the errors of `GEN_MATRIX`; R112, R114, R117, R118: those of the other builders. -/
theorem test_builder_errors :
    errAfter .genMatrix (withSlot keyedSlot #v[0x100, 15, 0x200, 256, 0, 0, 0, 0]) = (12, 0) ∧
    errAfter .genMatrix (withSlot keyedSlot #v[0, 16, 0x200, 256, 0, 0, 0, 0]) = (1, 0) ∧
    errAfter .genMatrix (withSlot keyedSlot #v[0x100, 16, 0x200, 255, 0, 0, 0, 0]) = (0xFE, 2) ∧
    errAfter .invMatrix (withSlot keyedSlot #v[0x100, 0, 0x200, 256, 0, 0, 0, 0]) = (2, 0) ∧
    errAfter .invMatrix (withSlot keyedSlot #v[0x100, 256, 0x200, 256, 0, 0, 0, 0]) = (10, 0) ∧
    errAfter .invPerm (withSlot keyedSlot #v[0x100, 255, 0x200, 256, 0, 0, 0, 0]) = (11, 0) ∧
    errAfter .initTables (withSlot keyedSlot #v[0x100, 256, 0x200, 256, 0, 0, 0, 0]) = (10, 0) ∧
    errAfter (.initDefault .compat) readyState = (12, 0) := by decide +kernel

/-- The host reads the registers (R21 to R23, R25). -/
theorem test_hostRead :
    readyState.hostRead (.p 1) = 32 ∧ readyState.hostRead .res = 0 ∧
    ({ readyState with fault := true, faultCause := 2 } : State).hostRead .fault = 1 ∧
    ({ readyState with fault := true, faultCause := 2 } : State).hostRead .faultCause = 2 := by decide

/-- R86: a code without an operation is refused by name. -/
theorem test_unassigned_micro :
    (match step (State.reset.withFetchWord 4 0xE) with
      | .refused .unassignedMicro => true
      | _ => false) = true := by decide

/-- `readyState` under `PROFILE_GOST`. -/
def gostState : State := { readyState with par := { Params.atReset with profile := profileGost } }

/-- R86: a micro-operation of the AES profile under another profile. -/
theorem test_aes_profile_only :
    (match exec .mixColumns gostState with
      | .refused .aesProfileOnly => true
      | _ => false) = true := by decide

/-- V70: `len = 0` with null input and output, the output of length 0, succeeds; R66 and D16: a null output with a length is a
missing argument, before the zero tag length of CMAC too (log entry 32). -/
theorem test_empty_input :
    errAfter (.ecbEnc 0) (withSlot keyedSlot #v[0, 0, 0, 0, 0, 0, 0, 0]) = (0, 0) ∧
    errAfter (.ecbEnc 0) (withSlot keyedSlot #v[0, 0, 0, 16, 0, 0, 0, 0]) = (1, 0) ∧
    errAfter (.cmac 0) (withSlot keyedSlot #v[0x100, 16, 0, 16, 0, 0, 0, 0]) = (1, 0) ∧
    errAfter (.cmac 0) (withSlot keyedSlot #v[0x100, 16, 0, 0, 0, 0, 0, 0]) = (2, 0) := by decide

/-! ### Witnesses: encoding and the step -/

/-- `DecodeEncode`: well-formed instructions at the edge of their operands. -/
theorem wit_DecodeEncode :
    (Instr.setKeyRandom 15 65535).wellFormed = true ∧ (Instr.bind 15 .b16p).wellFormed = true ∧
    Instr.lfsrStep.wellFormed = true := by decide

/-- `DecoderIsExact`: a command word and both internal forms decode; a row selects a word. -/
theorem wit_DecoderIsExact :
    decode (.command 0xFFFF0F10) = .ok (.create 15 65535) ∧ decode (.entry 3) = .ok .eraseKeys ∧
    decode (.micro 0) = .ok .addRoundKey ∧
    ∃ r ∈ hostRows, (0xFFFF0F10 : BitVec 32) &&& r.mask = r.pattern := by
  refine ⟨by decide, by decide, by decide, ⟨0x00000010, 0x0000F0FF, [0]⟩, by decide, by decide⟩

/-- `IllegalWordEnds`: an agenda with an illegal word of each kind. -/
theorem wit_IllegalWordEnds :
    State.reset.fault = false ∧ IllegalWord 0x00000000 ∧ IllegalWord 0x00010001 ∧ IllegalWord 0x00002005 ∧
    IllegalWord 0x00000011 ∧ IllegalWord 0x00004011 ∧ ¬ IllegalWord 0x00003011 := by
  refine ⟨rfl, ?_, ?_, ?_, ?_, ?_, ?_⟩ <;> decide +kernel

/-- `StepRunsDecodedInstruction`: an agenda for each form of code, and the empty one. -/
theorem wit_StepRunsDecodedInstruction :
    (({ State.reset with agenda := [.issue (.command 0x315)] } : State).agenda = .issue (.command 0x315) :: [] ∧
      decode (.command 0x315) = .ok (.destroy 3)) ∧
    decode (.entry 0) = .ok .encryptBlock ∧ decode (.micro 0xD) = .ok .lfsrStep ∧ State.reset.agenda = [] := by decide

/-- `HostWrites`: up to the end of memory and one byte further. -/
theorem wit_HostWrites :
    ({ State.reset with agenda := [.writeP 7 5] } : State).agenda = .writeP 7 5 :: [] ∧
    (0xFFFE : Word).toNat + [(1 : Byte), 2].length ≤ State.reset.par.memSize ∧
    State.reset.par.memSize < (0xFFFF : Word).toNat + [(1 : Byte), 2].length := by decide

/-- `ResetEvent`: an agenda with a reset, and a faulted machine that idles. -/
theorem wit_ResetEvent :
    ({ State.reset with agenda := [.reset [(5, 1)] TableSet.zero] } : State).agenda.head? =
      some (.reset [(5, 1)] TableSet.zero) ∧
    Memory.wf [(5, 1)] = true ∧ (∀ c ∈ ([(5, 1)] : List Host.Cell), c.1 < State.reset.par.memSize) := by
  refine ⟨rfl, by decide, by decide⟩

/-- `ResetEvent`, the second clause. -/
theorem wit_ResetEvent_faulted :
    (∀ cells tables, ({ State.reset with fault := true } : State).agenda.head? ≠ some (.reset cells tables)) ∧
    step { State.reset with fault := true } = .next { State.reset with fault := true } := by
  refine ⟨?_, rfl⟩
  intro cells tables h
  cases h

/-- An outcome that answers a next state of which a test holds. -/
theorem exists_next {o : Host.Outcome State Fault Refusal} {test : State → Bool}
    (h : (match o with
      | .next t => test t
      | .fault _ => false
      | .refused _ => false) = true) : ∃ t, o = .next t ∧ test t = true := by
  cases o with
  | next t => exact ⟨t, rfl, h⟩
  | fault r => cases h
  | refused r => cases h

/-- `FaultEndsEveryCommand`: a command that sets `FAULT`, with each cause. -/
theorem wit_FaultEndsEveryCommand :
    (∃ t, exec (.ecbEnc 0) (withSlot keyedSlot #v[0xFFF8, 32, 0x100, 32, 0, 0, 0, 0]) = .next t ∧
      (t.fault && t.faultCause == 1) = true) ∧
    (∃ t, exec (.ecbEnc 0) (withSlot keyedSlot #v[0x100, 32, 0x100, 40, 0, 0, 0, 0]) = .next t ∧
      (t.fault && t.faultCause == 2) = true) ∧
    (∃ t, exec (.ecbEnc 0) (withSlot keyedSlot #v[0x100, 32, 0x11F, 32, 0, 0, 0, 0]) = .next t ∧
      (t.fault && t.faultCause == 3) = true) := by
  refine ⟨exists_next ?_, exists_next ?_, exists_next ?_⟩ <;> decide

/-- `ErrorChangesResultsOnly`: an error before any write. -/
theorem wit_ErrorChangesResultsOnly :
    readyState.fault = false ∧ ∃ t, exec (.ecbEnc 1) readyState = .next t ∧ (t.res == 1) = true :=
  ⟨rfl, exists_next (by decide)⟩

/-- `ModePrechecks`: every verdict of R180 occurs, `(h)` and the boundary values of `(e)`, `(f)` among them. -/
theorem wit_ModePrechecks :
    modeVerdict (.ecbEnc 1) 1 readyState = .error 1 0 ∧
    modeVerdict (.ecbEnc 0) 0 (withSlot keyedSlot #v[0, 16, 0x100, 32, 0, 0, 0, 0]) = .error 1 0 ∧
    modeVerdict (.ecbEnc 0) 0 (withSlot { keyedSlot with kind := .unbound } readyState.p) = .error 6 0 ∧
    modeVerdict (.ecbEnc 0) 0 (withSlot { keyedSlot with keySet := false } readyState.p) = .error 9 0 ∧
    modeVerdict (.cmac 0) 0 (withSlot keyedSlot #v[0x100, 32, 0x100, 32, 0, 0, 0, 0]) = .error 2 0 ∧
    modeVerdict (.cbcDec 0) 0 (withSlot keyedSlot #v[0x100, 33, 0x100, 48, 0x200, 16, 0, 0]) = .error 4 0 ∧
    modeVerdict (.ctr 0) 0 (withSlot keyedSlot #v[0x100, 33, 0x100, 33, 0x200, 17, 0, 0]) = .error 5 0 ∧
    modeVerdict (.ctr 0) 0 (withSlot keyedSlot #v[0x100, 33, 0x100, 33, 0x200, 16, 0, 0]) = .go ∧
    modeVerdict (.cmac 0) 0 (withSlot keyedSlot #v[0x100, 32, 0x100, 32, 0, 0, 17, 0]) = .error 7 0 ∧
    modeVerdict (.cmac 0) 0 (withSlot keyedSlot #v[0x100, 32, 0x100, 32, 0, 0, 16, 0]) = .go ∧
    modeVerdict (.cbcEnc 0) 0 (withSlot keyedSlot #v[0x100, 32, 0x100, 32, 0xFFF1, 16, 0, 0]) = .fault 1 ∧
    modeVerdict (.ctr 0) 0 (withSlot keyedSlot #v[0x100, 33, 0x100, 32, 0x200, 1, 0, 0]) = .fault 2 ∧
    modeVerdict (.ctr 0) 0 (withSlot keyedSlot #v[0x100, 33, 0x1E0, 33, 0x200, 1, 0, 0]) = .fault 3 ∧
    modeVerdict (.ctr 0) 0 (withSlot { keyedSlot with resourceCounter := 0 } readyState.p) = .error 8 2 := by
  decide +kernel

/-- `BuilderChecks`: a verdict of each kind for the builders, at the lengths that decide. -/
theorem wit_BuilderChecks :
    builderVerdict .genMatrix (withSlot keyedSlot #v[0x100, 16, 0xFF00, 256, 0, 0, 0, 0]) = .go ∧
    builderVerdict .genMatrix (withSlot keyedSlot #v[0x100, 16, 0xFF01, 256, 0, 0, 0, 0]) = .fault 1 ∧
    builderVerdict .genMatrix (withSlot keyedSlot #v[0x100, 17, 0xFF01, 256, 0, 0, 0, 0]) = .error 12 0 ∧
    builderVerdict .invMatrix (withSlot keyedSlot #v[0x100, 256, 0x100, 256, 0, 0, 0, 0]) = .go ∧
    builderVerdict .invMatrix (withSlot keyedSlot #v[0x100, 256, 0x1FF, 256, 0, 0, 0, 0]) = .fault 3 ∧
    builderVerdict .invPerm (withSlot keyedSlot #v[0x100, 0, 0x200, 256, 0, 0, 0, 0]) = .error 2 0 ∧
    builderVerdict .invPerm (withSlot keyedSlot #v[0x100, 255, 0x200, 256, 0, 0, 0, 0]) = .error 11 0 ∧
    builderVerdict .initTables (withSlot keyedSlot #v[0x100, 256, 0x100, 256, 0, 0, 0, 0]) = .go ∧
    builderVerdict (.initDefault .compat) State.reset = .error 12 0 ∧
    builderVerdict (.initDefault .standard) State.reset = .go := by decide +kernel

/-- `KeyCommandChecks`: a verdict of each kind for the key commands, the refusal among them. -/
theorem wit_KeyCommandChecks :
    keyVerdict (.create 1 16) 1 readyState = .go ∧ keyVerdict (.create 0 16) 0 readyState = .error 12 0 ∧
    keyVerdict (.bind 0 .b16p) 0 readyState = .error 6 0 ∧
    keyVerdict (.bind 0 .b8) 0 (withSlot { Slot.zero with present := true, blockSize := 8 } readyState.p) =
      .refuse .alg8Absent ∧
    keyVerdict (.setKey 0) 0 (withSlot keyedSlot #v[0xFFF0, 16, 0, 0, 0, 0, 0, 0]) = .go ∧
    keyVerdict (.setKey 0) 0 (withSlot keyedSlot #v[0xFFF1, 16, 0, 0, 0, 0, 0, 0]) = .fault 1 ∧
    keyVerdict (.setKeyRandom 0 0) 0 readyState = .go ∧ keyVerdict (.setKeyRandom 0 1) 0 readyState = .error 3 0 ∧
    keyVerdict (.deriveNext 0) 0 (withSlot { keyedSlot with resourceCounter := 1 } readyState.p) = .go ∧
    keyVerdict (.deriveNext 0) 0 (withSlot { keyedSlot with resourceCounter := 0 } readyState.p) = .error 8 1 ∧
    keyVerdict (.destroy 9) 9 readyState = .go := by decide +kernel

/-! ### Witnesses: the field, the matrices and the table builder -/

/-- `GfMulLaws`, `MatrixLaws`, `GenerateMatrixIsSixteenSteps`: a polynomial of degree 8. -/
theorem wit_degree_eight : (0x11B : BitVec 9).getLsbD 8 = true := by decide

/-- `GfInverse`, `LfsrStepRule`, `InvertMatrixIsInverse`: an irreducible polynomial, the one of `PROFILE_AES`. -/
theorem wit_polyOk : PolyOk 0x11B := by decide +kernel

/-- The identity matrix is its own inverse. -/
theorem wit_identity_inverse (poly : BitVec 9) (h : ∀ a : Byte, gfMul poly a 1 = a) :
    MatInverse poly identity16 identity16 := by
  have hm : matMul poly identity16 identity16 = identity16 := by
    refine Vector.ext fun i hi => Vector.ext fun j hj => ?_
    simp only [matMul, Vector.getElem_ofFn, Fin.getElem_fin]
    rw [xorSum_single ⟨j, hj⟩ (by
      intro k hk
      have : j ≠ k.val := fun e => hk (Fin.ext e.symm)
      simp [this])]
    simp [show gfMul poly (if j = i then 1#8 else 0#8) 1#8 = if j = i then 1#8 else 0#8 from h _]
  exact ⟨hm, hm⟩

/-- Under the polynomial of `PROFILE_AES`, `gf_mul(a, 1) = a`. -/
theorem wit_gfMul_one : ∀ a : Byte, gfMul 0x11B a 1 = a := by decide +kernel

/-- `InvertMatrixIsInverse`: an invertible matrix. -/
theorem wit_InvertMatrixIsInverse : invertMatrix 0x11B identity16 = some identity16 := by decide +kernel

/-- The zero matrix has no inverse. -/
theorem wit_zero_singular (poly : BitVec 9) : ¬ Invertible poly TableSet.zero.mat := by
  rintro ⟨b, h, -⟩
  have h0 : ((matMul poly b TableSet.zero.mat)[0])[0] = 0#8 := by
    simp [matMul, TableSet.zero, Vec16.zero]
  rw [h] at h0
  exact absurd h0 (by decide)

/-- The identity permutation. -/
def identityTable : ByteTable := Vector.ofFn fun x => BitVec.ofFin x

theorem lookup_identityTable (x : Byte) : lookup identityTable x = x := by simp [identityTable]

/-- `InvertPermutationTwice`: the identity table is a permutation. -/
theorem wit_InvertPermutationTwice : Permutation identityTable := fun y =>
  ⟨y, lookup_identityTable y, fun x' h => (lookup_identityTable x').symm.trans h⟩

/-- The zero table is no permutation. -/
theorem wit_zero_no_permutation : ¬ Permutation TableSet.zero.perm := by
  intro h
  obtain ⟨x, hx, -⟩ := h 1
  simp [lookup, TableSet.zero] at hx

/-- The identity matrix at 0x100. -/
def matrixCells : List Host.Cell := (List.range 16).map fun i => (0x100 + 17 * i, (1 : Byte))

/-- The identity table at 0x200. -/
def tableCells : List Host.Cell := (List.range 255).map fun i => (0x201 + i, BitVec.ofNat 8 (i + 1))

/-- Memory with both, and the operand registers of a builder. -/
def builderState : State :=
  { State.reset with
    p := #v[0x100, 256, 0x200, 256, 0, 0, 0, 0]
    mem := matrixCells ++ tableCells }

/-- `GenMatrixResult`: the checks pass with the output at the end of memory. -/
theorem wit_GenMatrixResult :
    builderVerdict .genMatrix (withSlot keyedSlot #v[0xFFF0, 16, 0xFE00, 256, 0, 0, 0, 0]) = .go := by decide +kernel

/-- `InvMatrixResult`, `InitTablesResult`: the checks pass. -/
theorem wit_builder_checks :
    builderVerdict .invMatrix builderState = .go ∧ builderVerdict .initTables builderState = .go ∧
    builderState.fault = false := by decide +kernel

/-- `InvMatrixResult`, `InitTablesResult`: the identity matrix in memory. -/
theorem wit_matrix_in_memory (i j : Fin 16) :
    (identity16[i])[j] = builderState.byte (builderState.buf0.addr + (16 * i.val + j.val)) := by
  have h : ∀ i j : Fin 16, (identity16[i])[j] = Memory.read matrixCells (0x100 + (16 * i.val + j.val)) := by decide +kernel
  rw [h, show builderState.byte (builderState.buf0.addr + (16 * i.val + j.val)) =
    Memory.read (matrixCells ++ tableCells) (0x100 + (16 * i.val + j.val)) from rfl, Memory.read, Memory.read,
    List.find?_append, (List.find?_eq_none (l := tableCells)).mpr fun c hc => ?_, Option.or_none]
  obtain ⟨n, -, rfl⟩ := List.mem_map.mp hc
  simp only [beq_iff_eq]
  omega

/-- `InvMatrixResult`: the invertible clause; `InitTablesResult`, `InitDefaultResult`: its matrix. -/
theorem wit_invertible : Invertible 0x11B identity16 := ⟨identity16, wit_identity_inverse _ wit_gfMul_one⟩

/-- `InitTablesResult`: the identity table in memory. -/
theorem wit_table_in_memory (x : Byte) :
    lookup identityTable x = builderState.byte (builderState.buf1.addr + x.toNat) := by
  rw [lookup_identityTable, show builderState.byte (builderState.buf1.addr + x.toNat) =
    Memory.read (matrixCells ++ tableCells) (0x200 + x.toNat) from rfl, Memory.read, List.find?_append,
    (List.find?_eq_none (l := matrixCells)).mpr fun c hc => ?_, Option.none_or]
  · by_cases h0 : x = 0
    · subst h0
      rw [(List.find?_eq_none (l := tableCells)).mpr fun c hc => ?_]
      · rfl
      · obtain ⟨n, -, rfl⟩ := List.mem_map.mp hc
        simp
        omega
    · have hx : x.toNat ≠ 0 := fun e => h0 (BitVec.eq_of_toNat_eq e)
      have hlt : x.toNat < 256 := x.isLt
      have hf : tableCells.find? (fun c => c.1 == 0x200 + x.toNat) = some (0x200 + x.toNat, x) := by
        rw [tableCells, List.find?_map, List.find?_range_eq_some (i := x.toNat - 1) |>.mpr ⟨?_, ?_, ?_⟩]
        · simp only [Option.map_some, Option.some.injEq, Prod.mk.injEq]
          refine ⟨by omega, BitVec.eq_of_toNat_eq ?_⟩
          simp only [BitVec.toNat_ofNat]
          omega
        · simp only [Function.comp, beq_iff_eq]
          omega
        · simp only [List.mem_range]
          omega
        · intro n hn
          simp only [Function.comp, Bool.not_eq_eq_eq_not, Bool.not_true, beq_eq_false_iff_ne]
          omega
      rw [hf]
  · obtain ⟨n, hn, rfl⟩ := List.mem_map.mp hc
    simp only [List.mem_range] at hn
    simp only [beq_iff_eq]
    omega

/-- `InvMatrixResult`, `InvPermResult`, `InitTablesResult`: the failing clauses, on memory that reads 0. -/
theorem wit_zero_in_memory :
    (∀ i j : Fin 16, (TableSet.zero.mat[i])[j] = readyState.byte (0x300 + (16 * i.val + j.val))) ∧
    (∀ x : Byte, lookup TableSet.zero.perm x = readyState.byte (0x300 + x.toNat)) := by
  refine ⟨fun i j => ?_, fun x => ?_⟩
  · rw [show readyState.byte (0x300 + (16 * i.val + j.val)) = 0 from rfl]
    simp [TableSet.zero, Vec16.zero]
  · rw [show readyState.byte (0x300 + x.toNat) = 0 from rfl]
    simp [lookup, TableSet.zero]

/-- `InvMatrixResult`, `InitTablesResult`: the checks pass for the failing clauses. -/
theorem wit_failing_checks :
    builderVerdict .invMatrix (withSlot keyedSlot #v[0x300, 256, 0x500, 256, 0, 0, 0, 0]) = .go ∧
    builderVerdict .initTables (withSlot keyedSlot #v[0x300, 256, 0x300, 256, 0, 0, 0, 0]) = .go ∧
    builderVerdict .initTables { builderState with p := #v[0x100, 256, 0x300, 256, 0, 0, 0, 0] } = .go := by
  decide +kernel

/-- `InvPermResult`: the identity table read at 0x200, and the failing clause at 0x300. -/
theorem wit_InvPermResult :
    builderVerdict .invPerm { builderState with p := #v[0x200, 256, 0x300, 256, 0, 0, 0, 0] } = .go ∧
    builderVerdict .invPerm (withSlot keyedSlot #v[0x300, 256, 0x300, 256, 0, 0, 0, 0]) = .go := by decide +kernel

/-- A profile whose linear layer and substitution are the identity. -/
def identityProfile : Profile := { profileAes with linStd := .matrix identity16, permStd := identityTable }

/-- `InitDefaultResult`: a profile with the standard variant and without the other, one whose matrix is singular, and one whose
table is no permutation; `wit_invertible`, `wit_zero_singular` and `wit_zero_no_permutation` are about these values. -/
theorem wit_InitDefaultResult :
    variantTables identityProfile .standard = some (.matrix identity16, identityTable) ∧
    matrixOf identityProfile.poly (.matrix identity16) = identity16 ∧
    variantTables identityProfile .compat = none ∧
    variantTables { identityProfile with linStd := .matrix TableSet.zero.mat } .standard =
      some (.matrix TableSet.zero.mat, identityTable) ∧
    variantTables { identityProfile with permStd := TableSet.zero.perm } .standard =
      some (.matrix identity16, TableSet.zero.perm) := ⟨rfl, rfl, rfl, rfl, rfl⟩

/-- The table set of that profile. -/
def identityTables : TableSet := tableSet 0x11B identity16 identity16 identityTable identityTable

theorem identity_roundTable (j : Fin 16) (x : Byte) :
    lookup (roundTable 0x11B identity16 identityTable)[j] x =
      matApply 0x11B identity16 (scaleVec 0x11B (lookup identityTable x) (unitVec j)) := by
  have hone : ∀ a : Byte, gfMul 0x11B 1 a = a := by decide +kernel
  refine Vector.ext fun i hi => ?_
  simp only [matApply, scaleVec, Vector.getElem_ofFn, Fin.getElem_fin]
  rw [xorSum_single ⟨i, hi⟩ (by
    intro k hk
    have : k.val ≠ i := fun e => hk (Fin.ext e)
    simp [this])]
  simp [roundTable, scaleVec, columnOf, identityTable, show ∀ a : Byte, gfMul 283#9 1#8 a = a from hone, eq_comm]

/-- The last layer of `PROFILE_AES` is a permutation. -/
theorem wit_lastLin : LastLinOk profileAes := by
  show ∀ i j : Fin 16, piShiftRows[i] = piShiftRows[j] → i = j
  decide

/-- `InitDefaultResult`: a well-formed profile. -/
theorem wit_wfProfile : WfProfile identityProfile where
  poly := wit_polyOk
  linStd := wit_invertible
  linCompat := fun _ h => nomatch h
  permStd := wit_InvertPermutationTwice
  permCompat := fun _ h => nomatch h
  lastLin := wit_lastLin
  someLength := by decide
  lengthsApart := by decide
  sizes := by decide
  lenDefault := by decide
  expand := by decide

/-- `RoundTablesEquivalence`, `BlockInverse`, `TabledIsPlain`: a consistent table set, and a last layer that is a permutation. -/
theorem wit_consistent : identityTables.Consistent 0x11B ∧ LastLinOk profileAes ∧ LastLinOk profileGost :=
  ⟨⟨fun x => by rw [show identityTables.perm = identityTable from rfl, show identityTables.permInv = identityTable from rfl,
        lookup_identityTable, lookup_identityTable],
    fun x => by rw [show identityTables.perm = identityTable from rfl, show identityTables.permInv = identityTable from rfl,
        lookup_identityTable, lookup_identityTable],
    wit_identity_inverse _ wit_gfMul_one, identity_roundTable, identity_roundTable⟩, wit_lastLin, trivial⟩

/-- `BlockInverse`: slots of both shapes, with blocks of their size. -/
theorem wit_BlockInverse :
    keyedSlot.Shape ∧ (List.replicate 16 (7 : Byte)).length = keyedSlot.bs ∧
    ({ keyedSlot with kind := .b8, blockSize := 8 } : Slot).Shape ∧
    (List.replicate 8 (7 : Byte)).length = ({ keyedSlot with kind := .b8, blockSize := 8 } : Slot).bs := by decide

/-- `TableInvariant`: a state with a valid, consistent table set takes a step. -/
theorem wit_TableInvariant :
    ({ readyState with tbl := identityTables } : State).TablesOk ∧
    step { readyState with tbl := identityTables } = .next { readyState with tbl := identityTables } :=
  ⟨⟨wit_polyOk, fun _ => wit_consistent.1⟩, rfl⟩

/-! ### Witnesses: the key object -/

/-- `CreateResult`: both block sizes. -/
theorem wit_CreateResult :
    keyVerdict (.create 1 8) 1 readyState = .go ∧ keyVerdict (.create 15 16) 15 readyState = .go ∧
    readyState.fault = false := by decide

/-- `BindResult`: an unbound slot, `B8` with `alg8` present, a bound slot. -/
theorem wit_BindResult :
    keyVerdict (.bind 0 .b16t) 0 (withSlot { Slot.zero with present := true, blockSize := 16 } readyState.p) = .go ∧
    keyVerdict (.bind 0 .b8) 0
      { withSlot { Slot.zero with present := true, blockSize := 8 } readyState.p with
        par := { Params.atReset with alg8 := some ⟨[32], 32⟩ } } = .go ∧
    (readyState.slot 0).present = true ∧ (readyState.slot 0).kind ≠ .unbound := by decide

/-- `SetKeyResult`, `SetKeyRandomResult`: every accepted length at the end of memory, the default length and an explicit one. -/
theorem wit_SetKeyResult :
    keyVerdict (.setKey 0) 0 (withSlot keyedSlot #v[0xFFF0, 16, 0, 0, 0, 0, 0, 0]) = .go ∧
    keyVerdict (.setKey 0) 0 (withSlot keyedSlot #v[0xFFE0, 32, 0, 0, 0, 0, 0, 0]) = .go ∧
    keyVerdict (.setKeyRandom 0 0) 0 readyState = .go ∧ keyVerdict (.setKeyRandom 0 24) 0 readyState = .go := by decide

/-- `DeriveNextResult`: a counter of exactly `J`. -/
theorem wit_DeriveNextResult :
    (withSlot { keyedSlot with resourceCounter := 1 } readyState.p).Keyed 0 ∧
    keyVerdict (.deriveNext 0) 0 (withSlot { keyedSlot with resourceCounter := 1 } readyState.p) = .go := by decide

/-- `DestroyResult`: a present and an absent slot. -/
theorem wit_DestroyResult :
    readyState.fault = false ∧ (readyState.slot 0).present = true ∧ (readyState.slot 1).present = false ∧
    ∃ t, exec (.destroy 0) readyState = .next t :=
  ⟨rfl, rfl, rfl, _, rfl⟩

/-- `KeyExpansions`: keys of the three lengths of AES, the last one that of GOST. -/
theorem wit_KeyExpansions :
    (List.replicate 16 (1 : Byte)).length = 4 * 4 ∧ (List.replicate 24 (1 : Byte)).length = 4 * 6 ∧
    (List.replicate 32 (1 : Byte)).length = 4 * 8 := by decide

/-! ### Witnesses: the modes -/

/-- `EcbResult`: in place, elsewhere, at the end of memory with the counter exactly `M`, and an empty input. -/
theorem wit_EcbResult :
    ModeReady (.ecbEnc 0) 0 readyState ∧ ModeReady (.ecbDec 0) 0 readyState ∧
    ModeReady (.ecbEnc 0) 0 (withSlot { keyedSlot with resourceCounter := 2 }
      #v[0x100, 32, 0xFFE0, 32, 0, 0, 0, 0]) ∧
    ModeReady (.ecbDec 0) 0 (withSlot { keyedSlot with resourceCounter := 0 } #v[0, 0, 0, 0, 0, 0, 0, 0]) := by
  decide +kernel

/-- `CbcEncResult`, `CbcDecResult`: in place, and an empty input. -/
theorem wit_CbcResult :
    ModeReady (.cbcEnc 0) 0 readyState ∧ ModeReady (.cbcDec 0) 0 readyState ∧
    ModeReady (.cbcEnc 0) 0 (withSlot keyedSlot #v[0, 0, 0, 0, 0x200, 16, 0, 0]) ∧
    ModeReady (.cbcDec 0) 0 (withSlot keyedSlot #v[0, 0, 0, 0, 0x200, 16, 0, 0]) := by decide +kernel

/-- `CtrResult`: a partial last block and an IV of one byte; a slot of kind `B8`. -/
theorem wit_CtrResult :
    ModeReady (.ctr 0) 0 (withSlot keyedSlot #v[0x100, 33, 0x100, 33, 0x200, 1, 0, 0]) ∧
    ModeReady (.ctr 0) 0 (withSlot { keyedSlot with kind := .b8, blockSize := 8 }
      #v[0x100, 9, 0x300, 9, 0x200, 8, 0, 0]) ∧
    ModeReady (.ctr 0) 0 (withSlot keyedSlot #v[0, 0, 0, 0, 0x200, 16, 0, 0]) := by decide +kernel

/-- `CtrAcpkmResult`: two derivations, none, and the counter exactly `M`. -/
theorem wit_CtrAcpkmResult :
    ModeReady (.ctrAcpkm 0) 0 (withSlot { keyedSlot with resourceCounter := 7 } #v[0x100, 65, 0x100, 65, 0x200, 8, 2, 0]) ∧
    ModeReady (.ctrAcpkm 0) 0 (withSlot keyedSlot #v[0x100, 32, 0x100, 32, 0x200, 8, 2, 0]) := by decide +kernel

/-- `CmacResult`: a full last block with a whole tag, a padded one, and the empty message. -/
theorem wit_CmacResult :
    ModeReady (.cmac 0) 0 (withSlot keyedSlot #v[0x100, 32, 0x300, 16, 0, 0, 16, 0]) ∧
    ModeReady (.cmac 0) 0 (withSlot keyedSlot #v[0x100, 31, 0x300, 1, 0, 0, 1, 0]) ∧
    ModeReady (.cmac 0) 0 (withSlot { keyedSlot with resourceCounter := 2 } #v[0, 0, 0x300, 16, 0, 0, 16, 0]) := by
  decide +kernel

/-- `LowKeyResourcePrefix`: a counter of 1 for two blocks, in each of the modes. -/
theorem wit_LowKeyResourcePrefix :
    let s := withSlot { keyedSlot with resourceCounter := 1 } #v[0x100, 32, 0x100, 32, 0x200, 16, 8, 0]
    s.Keyed 0 ∧ modeVerdict (.ecbEnc 0) 0 s = .go ∧ modeVerdict (.ecbDec 0) 0 s = .go ∧ modeVerdict (.cbcEnc 0) 0 s = .go ∧
    modeVerdict (.cbcDec 0) 0 s = .go ∧ modeVerdict (.ctr 0) 0 s = .go ∧ modeVerdict (.cmac 0) 0 s = .go ∧ 1 = (s.slot 0).resourceCounter.toNat ∧ 1 < s.buf0.len / (s.slot 0).bs ∧
    1 < ceilDiv s.buf0.len (s.slot 0).bs ∧ 1 < blocksNeeded (.cmac 0) s := by decide +kernel

/-- `LowKeyResourcePrefix`, `CTR_ACPKM` with sections of two blocks: a counter of 2, which does not pay for the derivation before
block 2 (V64), and one of 3, which pays for it and not for the block. -/
theorem wit_LowKeyResourcePrefix_acpkm :
    let s := fun c : BitVec 64 => withSlot { keyedSlot with resourceCounter := c } #v[0x100, 64, 0x100, 64, 0x200, 16, 2, 0]
    (s 2).Keyed 0 ∧ modeVerdict (.ctrAcpkm 0) 0 (s 2) = .go ∧ modeVerdict (.ctrAcpkm 0) 0 (s 3) = .go ∧
    blocksNeeded (.ctrAcpkm 0) (s 3) = 5 ∧ (s 3).acpkmCalls 0 2 = 3 ∧ 2 % (s 2).extra = 0 := by decide +kernel

/-- `AcpkmLongSectionIsCtr`: a section of exactly the input's two blocks. -/
theorem wit_AcpkmLongSectionIsCtr :
    let s := withSlot keyedSlot #v[0x100, 32, 0x100, 32, 0x200, 16, 2, 0]
    0 < s.extra ∧ ceilDiv s.buf0.len (s.slot 0).bs ≤ s.extra := by decide

/-- `EncryptDecryptInPlace`: a slot of kind `B8` while the tables are invalid. -/
theorem wit_InPlace_b8 :
    let s := { withSlot { keyedSlot with kind := .b8, blockSize := 8 } #v[0x100, 16, 0x100, 16, 0x200, 8, 0, 0] with
      tbl := TableSet.zero }
    (s.slot 0).kind = .b8 ∧ s.tbl.valid = false ∧ s.buf1.addr = s.buf0.addr ∧
    2 * (s.buf0.len / (s.slot 0).bs) ≤ (s.slot 0).resourceCounter.toNat ∧
    ModeReady (.ecbEnc 0) 0 s ∧ ModeReady (.cbcEnc 0) 0 s := by decide +kernel

/-- `EncryptDecryptInPlace`, `CtrTwiceInPlace`: in place, with a counter for both commands and consistent tables. -/
theorem wit_InPlace :
    let s := { withSlot { keyedSlot with resourceCounter := 4 } #v[0x100, 32, 0x100, 32, 0x200, 16, 8, 0] with
      tbl := identityTables }
    s.TablesOk ∧ s.tbl.valid = true ∧ LastLinOk s.par.profile ∧ s.buf1.addr = s.buf0.addr ∧
    2 * (s.buf0.len / (s.slot 0).bs) ≤ (s.slot 0).resourceCounter.toNat ∧
    2 * ceilDiv s.buf0.len (s.slot 0).bs ≤ (s.slot 0).resourceCounter.toNat ∧
    ModeReady (.ecbEnc 0) 0 s ∧ ModeReady (.cbcEnc 0) 0 s ∧ ModeReady (.ctr 0) 0 s := by
  refine ⟨⟨wit_polyOk, fun _ => wit_consistent.1⟩, rfl, wit_lastLin, by decide, by decide, by decide, ?_, ?_, ?_⟩ <;>
    decide +kernel

/-- `CmacDoubling`: blocks of both sizes. -/
theorem wit_CmacDoubling :
    (List.replicate 8 (0xFF : Byte)).length = 8 ∧ (List.replicate 16 (0x80 : Byte)).length = 16 := by decide

/-! ### Witnesses: the internal operations -/

/-- A keyed slot of kind `B8`. -/
def keyedSlot8 : Slot := { keyedSlot with kind := .b8, blockSize := 8 }

/-- `BlockEntries`: kind `B8` while the tables are invalid. -/
theorem wit_BlockEntries_b8 :
    let s := { withSlot keyedSlot8 readyState.p with tbl := TableSet.zero }
    (s.slot s.seq.slot).Shape ∧ (s.slot s.seq.slot).keySet = true ∧ (s.slot s.seq.slot).kind = .b8 ∧ s.tbl.valid = false := by
  decide

/-- `BlockEntries`: a keyed slot, an unbound one, one without a key. -/
theorem wit_BlockEntries :
    (readyState.slot readyState.seq.slot).Shape ∧ (readyState.slot readyState.seq.slot).keySet = true ∧
    readyState.tbl.valid = true ∧ (State.reset.slot State.reset.seq.slot).kind = .unbound ∧
    (withSlot { keyedSlot with keySet := false } readyState.p).tbl.valid = true ∧
    ((withSlot { keyedSlot with keySet := false } readyState.p).slot 0).kind ≠ .unbound := by decide

/-- `BlockEntries`, the rounds: one round and fourteen, and both kinds of 16 bytes. -/
theorem wit_BlockEntries_rounds :
    (∀ nr ∈ ([1, 14] : List (Fin 15)), 0 < nr.val ∧
      ((withSlot { keyedSlot with nrk := BitVec.ofNat 4 (nr.val + 1) } readyState.p).slot 0).nrk.toNat = nr.val + 1) ∧
    (readyState.slot 0).kind = .b16p ∧ LastLinOk readyState.par.profile ∧
    ((withSlot { keyedSlot with kind := .b16t } readyState.p).slot 0).kind = .b16t :=
  ⟨by decide, rfl, wit_lastLin, rfl⟩

/-- `KeyScheduleEntries`: an accepted length of a 16-byte kind, and of `B8` with `alg8` present; an unbound slot and a length that
is not accepted. -/
theorem wit_KeyScheduleEntries :
    (State.reset.slot State.reset.seq.slot).kind = .unbound ∧
    ((gostState.slot gostState.seq.slot).kind ≠ .unbound ∧
      ¬ AcceptedKeyLen gostState.par (gostState.slot gostState.seq.slot).kind
        (gostState.slot gostState.seq.slot).keyLen.toNat) ∧
    AcceptedKeyLen readyState.par (readyState.slot readyState.seq.slot).kind
      (readyState.slot readyState.seq.slot).keyLen.toNat ∧
    AcceptedKeyLen { Params.atReset with alg8 := some ⟨[32], 32⟩ } .b8 (32 : BitVec 8).toNat := by decide

/-- `UnspecifiedTables`: a keyed slot of a 16-byte kind with an accepted key length, invalid tables, and two such table sets. -/
theorem wit_UnspecifiedTables :
    let s := { readyState with tbl := TableSet.zero }
    s.tbl.valid = false ∧ (s.slot s.seq.slot).kind = .b16p ∧ (s.slot s.seq.slot).keySet = true ∧
    AcceptedKeyLen s.par (s.slot s.seq.slot).kind (s.slot s.seq.slot).keyLen.toNat ∧
    ({ TableSet.zero with perm := identityTable } : TableSet).valid = false ∧
    Instr.scheduleKeys.hostIssuable = false := by decide

/-- `ByteStages`, `MatrixStages`, `UnspecifiedTables`: valid and invalid tables, both forms of the last layer. -/
theorem wit_stages :
    readyState.tbl.valid = true ∧ State.reset.tbl.valid = false ∧
    readyState.par.profile.lastLin = .bytePerm piShiftRows ∧ LastLinOk readyState.par.profile ∧
    gostState.par.profile.lastLin = .same := by
  refine ⟨rfl, rfl, rfl, wit_lastLin, rfl⟩

/-- `ShiftRowsRule`, `MixColumnsRule`, `InverseAesStages`: `PROFILE_AES` and another profile. -/
theorem wit_aes_profile : readyState.par.profile = profileAes ∧ gostState.par.profile ≠ profileAes :=
  ⟨rfl, fun h => absurd (congrArg Profile.keyLenDefault h) (by decide)⟩

/-- `ShiftRowsRule`, `MixColumnsRule`, `InverseAesStages`: the last row and column, and a vector with the example's column. -/
theorem wit_columns :
    (3 : Fin 4).val + 4 * (3 : Fin 4).val < 16 ∧ 4 * 3 + 3 < 16 ∧
    (#v[0xdb, 0x13, 0x53, 0x45, 0, 0, 0, 0, 0, 0, 0, 0, 0, 0, 0, 0] : Vec16)[0] = 0xdb ∧
    (#v[0xdb, 0x13, 0x53, 0x45, 0, 0, 0, 0, 0, 0, 0, 0, 0, 0, 0, 0] : Vec16)[3] = 0x45 := by decide

/-! ### Witnesses: the whole machine -/

/-- A state about to write memory. -/
def writingState : State := { State.reset with agenda := [.writeMem 0x100 [5]] }

/-- `MemoryInvariant`: a state with canonical memory takes a step that writes. -/
theorem wit_MemoryInvariant :
    writingState.MemOk ∧ ∃ t, step writingState = .next t ∧ (decide (t.mem = [(0x100, 5)])) = true := by
  refine ⟨⟨rfl, ?_⟩, exists_next (by decide)⟩
  intro c hc
  cases hc

/-- Scheduling twice is scheduling once. -/
theorem scheduleKeys_idem (par : Params) (tbl : TableSet) (sl : Slot) :
    Slot.scheduleKeys par tbl (Slot.scheduleKeys par tbl sl) = Slot.scheduleKeys par tbl sl := by
  cases h : sl.kind <;> simp [Slot.scheduleKeys, Slot.keyBytes, h]

/-- A state with a keyed slot, driven by the host, about to take a command. -/
def hostState : State :=
  { withSlot (Slot.scheduleKeys Params.atReset TableSet.zero keyedSlot) readyState.p with
    agenda := [.issue (.command 0x00100310)] }

/-- `SlotInvariant`: every slot meets R31, one of them keyed, and the host's next command is taken. -/
theorem wit_SlotInvariant : hostState.SlotsOk ∧ ∃ t, step hostState = .next t := by
  refine ⟨⟨by decide, rfl, ?_⟩, ?_⟩
  · intro k
    by_cases hk : k = 0
    · subst hk
      have h0 : hostState.slot 0 = Slot.scheduleKeys Params.atReset TableSet.zero keyedSlot := by
        simp [hostState, withSlot, State.slot]
      rw [h0]
      refine ⟨.inr rfl, .inr (.inr ⟨.inr rfl, rfl⟩), ⟨by decide, by decide⟩, fun _ => ⟨by decide, by decide, TableSet.zero, ?_⟩,
        fun h => ?_⟩
      · exact scheduleKeys_idem _ _ _
      · exact absurd h (by decide)
    · have hv : (0 : Nat) ≠ k.val := fun e => hk (Fin.ext e.symm)
      have : hostState.slot k = Slot.zero := by
        simp [hostState, withSlot, State.slot, State.reset, hv]
      rw [this]
      rfl
  · exact ⟨_, rfl⟩

/-- `CommandFrame`: a command that answers. -/
theorem wit_CommandFrame : (Instr.destroy 0).hostIssuable = true ∧ ∃ t, exec (.destroy 0) readyState = .next t :=
  ⟨rfl, _, rfl⟩

/-- `CommandFrame`: a bound slot that is present before and after a command. -/
theorem wit_CommandFrame_bound :
    (readyState.slot 0).kind ≠ .unbound ∧ (readyState.slot 0).present = true ∧
    ∃ t, exec (.bind 0 .b16t) readyState = .next t ∧ decide ((t.slot 0).present = true) = true :=
  ⟨by decide, by decide, exists_next (by decide)⟩

/-- The slot of `readyState` with another key, tag and IV length. -/
def otherSlot : Slot := { keyedSlot with key := Vector.replicate 32 7, keyTag := 9, ivLength := 16 }

/-- `HiddenStateUnobservable`: two states that differ only in a key, its tag and an IV. -/
theorem wit_HiddenStateUnobservable :
    readyState.visible = (withSlot otherSlot readyState.p).visible ∧ readyState ≠ withSlot otherSlot readyState.p ∧
    (Instr.cbcEnc 0).hostIssuable = true := by
  refine ⟨?_, fun h => absurd (congrArg (fun s : State => (s.slot 0).keyTag) h) (by decide), rfl⟩
  have h : ∀ k : SlotId, (readyState.slot k).visible = ((withSlot otherSlot readyState.p).slot k).visible := by
    decide +kernel
  simp only [State.visible, h]
  rfl

/-! ### The GOST key schedule -/

/-- `M_GOST` as R233 prints it. -/
def matrixGost : Matrix16 :=
  #v[
    #v[0xcf, 0x98, 0x74, 0xbf, 0x93, 0x8e, 0xf2, 0xf3, 0x0a, 0xbf, 0xf6, 0xa9, 0xea, 0x8e, 0x4d, 0x6e],
    #v[0x6e, 0x20, 0xc6, 0xda, 0x90, 0x48, 0x89, 0x9c, 0xc1, 0x64, 0xb8, 0x2d, 0x86, 0x44, 0xd0, 0xa2],
    #v[0xa2, 0xc8, 0x87, 0x70, 0x68, 0x43, 0x1c, 0x2b, 0xa1, 0x63, 0x30, 0x6b, 0x9f, 0x30, 0xe3, 0x76],
    #v[0x76, 0x33, 0x10, 0x0c, 0x1c, 0x11, 0xd6, 0x6a, 0xa6, 0xd7, 0xf6, 0x49, 0x07, 0x14, 0xe8, 0x72],
    #v[0x72, 0xf2, 0x6b, 0xca, 0x20, 0xeb, 0x02, 0xa4, 0x8d, 0xd4, 0xc4, 0x01, 0x65, 0xdd, 0x4c, 0x6c],
    #v[0x6c, 0x76, 0xec, 0x0c, 0xc5, 0xbc, 0xaf, 0x6e, 0xa3, 0xe1, 0x90, 0x58, 0x0e, 0x02, 0xc3, 0x48],
    #v[0x48, 0xd5, 0x62, 0x17, 0x06, 0x2d, 0xc4, 0xe7, 0xd5, 0xeb, 0x99, 0x78, 0x52, 0xf5, 0x16, 0x7a],
    #v[0x7a, 0xe6, 0x4e, 0x1a, 0xbb, 0x2e, 0xf1, 0xbe, 0xd4, 0xaf, 0x37, 0xb1, 0xd4, 0x2a, 0x6e, 0xb8],
    #v[0xb8, 0x49, 0x87, 0x14, 0xcb, 0x8d, 0xab, 0x49, 0x09, 0x6c, 0x2a, 0x01, 0x60, 0x8e, 0x4b, 0x5d],
    #v[0x5d, 0xd4, 0xb8, 0x2f, 0x8d, 0x12, 0xee, 0xf6, 0x08, 0x54, 0x0f, 0xf3, 0x98, 0xc8, 0x7f, 0x27],
    #v[0x27, 0x9f, 0xbe, 0x68, 0x1a, 0x7c, 0xad, 0xc9, 0x84, 0x2f, 0xeb, 0xfe, 0xc6, 0x48, 0xa2, 0xbd],
    #v[0xbd, 0x95, 0x5e, 0x30, 0xe9, 0x60, 0xbf, 0x10, 0xef, 0x39, 0xec, 0x91, 0x7f, 0x48, 0x89, 0x10],
    #v[0x10, 0xe9, 0xd0, 0xd9, 0xf3, 0x94, 0x3d, 0xaf, 0x7b, 0xff, 0x64, 0x91, 0x52, 0xf8, 0x0d, 0xdd],
    #v[0xdd, 0x99, 0x75, 0xca, 0x97, 0x44, 0x5a, 0xe0, 0x30, 0xa6, 0x31, 0xd3, 0xdf, 0x48, 0x64, 0x84],
    #v[0x84, 0x2d, 0x74, 0x96, 0x5d, 0x77, 0x6f, 0xde, 0x54, 0xb4, 0x8d, 0xd1, 0x44, 0x3c, 0xa5, 0x94],
    #v[0x94, 0x20, 0x85, 0x10, 0xc2, 0xc0, 0x01, 0xfb, 0x01, 0xc0, 0xc2, 0x10, 0x85, 0x20, 0x94, 0x01]]

/-- V45: `rk[2]` of the GOST key. -/
theorem test_expandGost :
    (expandGost profileGost { TableSet.zero with mat := matrixGost, perm := sboxGost }
      ([0x88, 0x99, 0xaa, 0xbb, 0xcc, 0xdd, 0xee, 0xff, 0x00, 0x11, 0x22, 0x33, 0x44, 0x55, 0x66, 0x77] ++
        [0xfe, 0xdc, 0xba, 0x98, 0x76, 0x54, 0x32, 0x10, 0x01, 0x23, 0x45, 0x67, 0x89, 0xab, 0xcd, 0xef])).getD 2
      Vec16.zero =
      #v[0xdb, 0x31, 0x48, 0x53, 0x15, 0x69, 0x43, 0x43, 0x22, 0x8d, 0x6a, 0xef, 0x8c, 0xc7, 0x8c, 0x44] := by
  decide +kernel

/-! ### The rounds of a block -/

/-- The round keys of V40, and four that its key length has no use for. -/
def roundKeysC1 : RoundKeys :=
  #v[#v[0x00, 0x01, 0x02, 0x03, 0x04, 0x05, 0x06, 0x07, 0x08, 0x09, 0x0a, 0x0b, 0x0c, 0x0d, 0x0e, 0x0f],
    #v[0xd6, 0xaa, 0x74, 0xfd, 0xd2, 0xaf, 0x72, 0xfa, 0xda, 0xa6, 0x78, 0xf1, 0xd6, 0xab, 0x76, 0xfe],
    #v[0xb6, 0x92, 0xcf, 0x0b, 0x64, 0x3d, 0xbd, 0xf1, 0xbe, 0x9b, 0xc5, 0x00, 0x68, 0x30, 0xb3, 0xfe],
    #v[0xb6, 0xff, 0x74, 0x4e, 0xd2, 0xc2, 0xc9, 0xbf, 0x6c, 0x59, 0x0c, 0xbf, 0x04, 0x69, 0xbf, 0x41],
    #v[0x47, 0xf7, 0xf7, 0xbc, 0x95, 0x35, 0x3e, 0x03, 0xf9, 0x6c, 0x32, 0xbc, 0xfd, 0x05, 0x8d, 0xfd],
    #v[0x3c, 0xaa, 0xa3, 0xe8, 0xa9, 0x9f, 0x9d, 0xeb, 0x50, 0xf3, 0xaf, 0x57, 0xad, 0xf6, 0x22, 0xaa],
    #v[0x5e, 0x39, 0x0f, 0x7d, 0xf7, 0xa6, 0x92, 0x96, 0xa7, 0x55, 0x3d, 0xc1, 0x0a, 0xa3, 0x1f, 0x6b],
    #v[0x14, 0xf9, 0x70, 0x1a, 0xe3, 0x5f, 0xe2, 0x8c, 0x44, 0x0a, 0xdf, 0x4d, 0x4e, 0xa9, 0xc0, 0x26],
    #v[0x47, 0x43, 0x87, 0x35, 0xa4, 0x1c, 0x65, 0xb9, 0xe0, 0x16, 0xba, 0xf4, 0xae, 0xbf, 0x7a, 0xd2],
    #v[0x54, 0x99, 0x32, 0xd1, 0xf0, 0x85, 0x57, 0x68, 0x10, 0x93, 0xed, 0x9c, 0xbe, 0x2c, 0x97, 0x4e],
    #v[0x13, 0x11, 0x1d, 0x7f, 0xe3, 0x94, 0x4a, 0x17, 0xf3, 0x07, 0xa7, 0x8b, 0x4d, 0x2b, 0x30, 0xc5],
    Vec16.zero, Vec16.zero, Vec16.zero, Vec16.zero]

/-- A latched slot of kind `B16P` with these round keys, the tables of the AES profile, and a block in latch `v`. -/
def blockState (b : Vec16) : State :=
  { withSlot { keyedSlot with rk := roundKeysC1 } readyState.p with
    seq := ⟨0, b, Vec16.zero⟩
    tbl :=
      { TableSet.zero with
        valid := true
        mat := matrixAes
        perm := sboxAes } }

/-- V40: the ten rounds of FIPS-197 C.1. -/
theorem test_encryptBlock :
    latchAfter .encryptBlock (blockState
      #v[0x00, 0x11, 0x22, 0x33, 0x44, 0x55, 0x66, 0x77, 0x88, 0x99, 0xaa, 0xbb, 0xcc, 0xdd, 0xee, 0xff]) =
      #v[0x69, 0xc4, 0xe0, 0xd8, 0x6a, 0x7b, 0x04, 0x30, 0xd8, 0xcd, 0xb7, 0x80, 0x70, 0xb4, 0xc5, 0x5a] := by
  decide +kernel

end Sys2Proof.Tests
end

section
/-! ### The step, and how the checks of a command decide its end -/

namespace Sys2Proof.Machine

/-! #### The step -/

theorem step_cons {s : State} {e : Event} {rest : List Event} (h : s.agenda = e :: rest) :
    step s = runEvent e { s with agenda := rest } := by
  simp only [step, nextEvent, h]

theorem step_idle {s : State} (h : s.agenda = []) : step s = .next s := by
  simp only [step, nextEvent, h]

theorem issueCommand_of_decode {s : State} {w : BitVec 32} {i : Instr} (h : decode (.command w) = .ok i) :
    issueCommand w s = exec i { s with cmd := w } := by
  simp only [issueCommand, h]

theorem issueInternal_of_decode {s : State} {c : Code} {i : Instr} (h : decode c = .ok i) :
    issueInternal c s = exec i s := by
  simp only [issueInternal, h]

/-- Settles O5: the agenda's head is run, and a code that decodes runs its instruction. -/
theorem stepRunsDecodedInstruction : Obligations.StepRunsDecodedInstruction := by
  refine ⟨fun s w i rest ha hd => ?_, fun s c i rest ha hd => ?_, fun s c i rest ha hd => ?_, fun s => step_idle⟩
  · exact (step_cons ha).trans (issueCommand_of_decode hd)
  · exact (step_cons ha).trans (issueInternal_of_decode hd)
  · exact (step_cons ha).trans (issueInternal_of_decode hd)

/-! #### Verdicts -/

/-- The verdict of a command's list of checks, read off the first one that fails. -/
def verdictOf : Option Stop → Verdict
  | none => .go
  | some (.error e req) => .error (errorCode e).toNat req
  | some (.breach c) => .fault (causeCode c).toNat
  | some (.refuse r) => .refuse r

/-- A command ends as the verdict of its checks says, if its effect sets no fault. -/
theorem command_ends {s e : State} {k : Option SlotId} {cs : List Check} {v : Verdict} (hf : s.fault = false)
    (he : e.fault = false) (hv : v = verdictOf (firstStop cs)) : v.Ends s k (command s k cs e) := by
  subst hv
  cases hc : firstStop cs with
  | none => exact ⟨e, command_passes hf hc, he⟩
  | some stop =>
    rw [command_stops hf hc]
    cases stop with
    | error err req => cases err <;> cases k <;> rfl
    | breach c => cases c <;> rfl
    | refuse r => rfl

/-- The verdict when a check heads the list. -/
theorem verdictOf_firstStop_cons (fails : Bool) (stop : Stop) (cs : List Check) :
    verdictOf (firstStop (⟨fails, stop⟩ :: cs)) = if fails = true then verdictOf (some stop) else verdictOf (firstStop cs) := by
  cases fails <;> rfl

/-- A missing argument is one that is not present. -/
theorem Buffer.missing_eq_true {b : Buffer} : b.missing = true ↔ ¬ b.Present := by
  simp only [Buffer.missing, Bool.and_eq_true, decide_eq_true_eq]
  omega

theorem Buffer.outOfRange_eq_true {size : Nat} {b : Buffer} : b.outOfRange size = true ↔ ¬ b.InRange size := by
  simp only [Buffer.outOfRange, Bool.and_eq_true, decide_eq_true_eq]
  omega

/-- The contract checks have the contract's verdict. -/
theorem verdictOf_contractChecks (size : Nat) (buffers : List Buffer) (tooShort overlap : Bool) :
    verdictOf (firstStop (contractChecks size buffers tooShort overlap)) =
      contractVerdict size buffers (!tooShort) (!overlap) .go := by
  have hany : (buffers.any fun b => b.outOfRange size) = true ↔ ¬ ∀ b ∈ buffers, b.InRange size := by
    simp only [List.any_eq_true, Buffer.outOfRange_eq_true]
    push Not
    rfl
  simp only [contractChecks, contractVerdict, verdictOf_firstStop_cons, hany]
  cases tooShort <;> cases overlap <;> rfl

theorem acceptsKeyLen_eq_true {par : Params} {kind : Kind} {n : Nat} :
    acceptsKeyLen par kind n = true ↔ AcceptedKeyLen par kind n := by
  simp [acceptsKeyLen]

/-- The end of a command that made block calls has the fault flag of the state they left. -/
theorem finishJob_deriveNext_fault (s : State) (k : SlotId) (req : Nat) :
    (finishJob k req (deriveNext k ⟨s, 0⟩)).fault = s.fault := by
  obtain ⟨hok, herr⟩ := deriveNext_frame (j := ⟨s, 0⟩) (State.OnlySlotAndMem.refl k s)
  obtain ⟨j, err, ⟨hj, -⟩ | ⟨hj, -⟩, h⟩ := finishJob_ends k req (deriveNext k ⟨s, 0⟩)
  · rw [h]; exact (hok j hj).fields.2.2.1
  · rw [h]; exact (herr j hj).fields.2.2.1

/-! #### The six key commands -/

section
variable {s : State} {k : SlotId}

theorem execCreate_ends (hf : s.fault = false) (n : Nat) :
    (keyVerdict (.create k n) k s).Ends s (some k) (execCreate k n s) := by
  refine command_ends hf hf ?_
  simp only [keyVerdict, verdictOf_firstStop_cons, Bool.and_eq_true, decide_eq_true_eq]
  rfl

theorem execBind_ends (hf : s.fault = false) (kind : BindKind) :
    (keyVerdict (.bind k kind) k s).Ends s (some k) (execBind k kind s) := by
  refine command_ends hf hf ?_
  have hsize : (s.slot k).blockSize ≠ bindBlockSize kind ↔
      (kind = .b8 ∧ (s.slot k).blockSize ≠ 8) ∨ (kind ≠ .b8 ∧ (s.slot k).blockSize ≠ 16) := by
    cases kind <;> simp [bindBlockSize]
  simp only [keyVerdict, absentCheck, verdictOf_firstStop_cons, Bool.and_eq_true, Bool.not_eq_true', decide_eq_true_eq,
    Option.isNone_iff_eq_none, hsize]
  rfl

theorem execSetKey_ends (hf : s.fault = false) :
    (keyVerdict (.setKey k) k s).Ends s (some k) (execSetKey k s) := by
  refine command_ends hf hf ?_
  simp only [keyVerdict, absentCheck, unboundCheck, List.cons_append, List.nil_append, verdictOf_firstStop_cons,
    verdictOf_contractChecks, Bool.not_eq_true', decide_eq_true_eq, Buffer.missing_eq_true, ← acceptsKeyLen_eq_true,
    Bool.not_eq_true]
  rfl

theorem execSetKeyRandom_ends (hf : s.fault = false) (n : Nat) :
    (keyVerdict (.setKeyRandom k n) k s).Ends s (some k) (execSetKeyRandom k n s) := by
  refine command_ends hf ?_ ?_
  · split <;> exact hf
  · have hlen : (if n ≠ 0 then n else defaultKeyLen s.par (s.slot k).kind) = randomKeyLen s k n := by
      simp only [randomKeyLen, ne_eq, ite_not]
    simp only [keyVerdict, hlen, absentCheck, unboundCheck, verdictOf_firstStop_cons, Bool.not_eq_true',
      decide_eq_true_eq, ← acceptsKeyLen_eq_true, Bool.not_eq_true]
    rfl

theorem execDeriveNext_ends (hf : s.fault = false) :
    (keyVerdict (.deriveNext k) k s).Ends s (some k) (execDeriveNext k s) := by
  refine command_ends hf ((finishJob_deriveNext_fault s k _).trans hf) ?_
  simp only [keyVerdict, absentCheck, unboundCheck, unkeyedCheck, verdictOf_firstStop_cons, Bool.not_eq_true',
    decide_eq_true_eq]
  rfl

theorem execDestroy_ends (hf : s.fault = false) :
    (keyVerdict (.destroy k) k s).Ends s (some k) (execDestroy k s) := by
  refine command_ends hf ?_ rfl
  split <;> exact hf

end

/-- Settles O13, command by command: the verdict of the rule is the verdict of the command's list of checks. -/
theorem keyCommandChecks : Obligations.KeyCommandChecks := by
  intro i k s hk hmode hf
  cases i <;> cases hk
  case create n => exact execCreate_ends hf n
  case bind kind => exact execBind_ends hf kind
  case setKey => exact execSetKey_ends hf
  case setKeyRandom n => exact execSetKeyRandom_ends hf n
  case deriveNext => exact execDeriveNext_ends hf
  case destroy => exact execDestroy_ends hf
  all_goals cases hmode

end Sys2Proof.Machine
end

section
/-! ### The memory invariant

Every store of the model lies inside the address space, because the contract checks of 20_memory.md R67 stand before it. -/

namespace Sys2Proof.Machine

/-! #### What a state update keeps -/

/-- `t` has the parameters of `s`, and if memory is canonical and in range in `s` then it is in `t`. -/
def State.KeepsMem (s t : State) : Prop := t.par = s.par ∧ (s.MemOk → t.MemOk)

theorem State.KeepsMem.refl (s : State) : s.KeepsMem s := ⟨rfl, id⟩

theorem State.KeepsMem.trans {s t u : State} (h : s.KeepsMem t) (h' : t.KeepsMem u) : s.KeepsMem u :=
  ⟨h'.1.trans h.1, h'.2 ∘ h.2⟩

/-- An update that writes neither memory nor a parameter. -/
theorem State.KeepsMem.of_eq {s t : State} (hpar : t.par = s.par) (hmem : t.mem = s.mem) : s.KeepsMem t :=
  ⟨hpar, fun h => by simpa only [State.MemOk, hpar, hmem] using h⟩

theorem State.KeepsMem.setSlot {s t : State} (h : s.KeepsMem t) (k : SlotId) (sl : Slot) : s.KeepsMem (t.setSlot k sl) :=
  h.trans (.of_eq rfl rfl)

theorem State.KeepsMem.conclude {s t : State} (h : s.KeepsMem t) (k : Option SlotId) (err : Byte) (done req : Nat) :
    s.KeepsMem (t.conclude k err done req) :=
  h.trans (.of_eq rfl rfl)

/-- A store that writes nothing or lies inside the address space. -/
theorem State.KeepsMem.store {s t : State} (h : s.KeepsMem t) {addr n : Nat} (v : List Byte)
    (hr : 0 < n → addr + n ≤ s.par.memSize) : s.KeepsMem (t.store addr n v) := by
  refine ⟨h.1, fun hs => ?_⟩
  obtain ⟨hwf, hin⟩ := h.2 hs
  refine ⟨Memory.wf_writeBytes _ _ hwf, fun c hc => ?_⟩
  obtain ⟨_, hlt⟩ | hc := Memory.mem_writeBytes hc
  · have hlen : (v.take n).length ≤ n := List.length_take_le n v
    have := hr (by omega)
    simp only [State.store_par, h.1]
    omega
  · exact hin c hc

/-- Memory made of the cells inside the address space lists no other address. -/
theorem Memory.lt_of_mem_ofCells {size : Nat} {cells : List Host.Cell} {c : Host.Cell}
    (h : c ∈ Memory.ofCells size cells) : c.1 < size := by
  suffices ∀ (l m : List Host.Cell), (∀ d ∈ l, d.1 < size) → (∀ d ∈ m, d.1 < size) →
      ∀ d ∈ l.foldl (fun m c => Memory.write m c.1 c.2) m, d.1 < size from
    this _ [] (fun d hd => by simpa using (List.mem_filter.mp hd).2) (by simp) c h
  intro l
  induction l with
  | nil => exact fun m _ hm => hm
  | cons e l ih =>
    intro m hl hm
    refine ih _ (fun d hd => hl d (List.mem_cons_of_mem _ hd)) fun d hd => ?_
    obtain rfl | hd := Memory.mem_write hd
    · exact hl e List.mem_cons_self
    · exact hm d hd

/-! #### The command shape and the contract -/

/-- A command keeps what its effect keeps, for every check it can end at writes result registers alone. -/
theorem command_keepsMem {s t e : State} {k : Option SlotId} {cs : List Check} (h : command s k cs e = .next t)
    (he : firstStop cs = none → s.KeepsMem e) : s.KeepsMem t := by
  obtain ⟨-, rfl⟩ | ⟨-, err, req, -, rfl⟩ | ⟨-, c, -, rfl⟩ | ⟨-, hc, rfl⟩ := command_cases h
  · exact .of_eq rfl rfl
  · exact .of_eq rfl rfl
  · exact .of_eq rfl rfl
  · exact he hc

/-- The contract checks pass exactly when every buffer is in range, the output is long enough and nothing overlaps. -/
theorem contractChecks_pass {size : Nat} {buffers : List Buffer} {tooShort overlap : Bool} :
    firstStop (contractChecks size buffers tooShort overlap) = none ↔
      (∀ b ∈ buffers, b.outOfRange size = false) ∧ tooShort = false ∧ overlap = false := by
  simp [firstStop_eq_none, contractChecks]

/-- Checks that have all passed, part by part. -/
theorem firstStop_append_eq_none {as bs : List Check} :
    firstStop (as ++ bs) = none ↔ firstStop as = none ∧ firstStop bs = none := by
  rw [firstStop_append, Option.or_eq_none_iff]

/-- The first bytes of a buffer in range lie inside the address space. -/
theorem Buffer.first_in_range {size n : Nat} {b : Buffer} (h : b.outOfRange size = false) (hn : n ≤ b.len) (h0 : 0 < n) :
    b.addr + n ≤ size := by
  simp only [Buffer.outOfRange, Bool.and_eq_false_iff, decide_eq_false_iff_not] at h
  omega

/-- A block of an input of whole blocks has its place in an output that is long enough and in range. -/
theorem Buffer.block_in_range {size len bs i : Nat} {b : Buffer} (h : b.outOfRange size = false) (hlen : len ≤ b.len)
    (hi : i < len / bs) (hbs : 0 < bs) : b.addr + i * bs + bs ≤ size := by
  have hend : (i + 1) * bs ≤ len := (Nat.mul_le_mul_right bs hi).trans (Nat.div_mul_le_self len bs)
  have hin := Buffer.first_in_range h (hend.trans hlen) (Nat.mul_pos i.succ_pos hbs)
  rw [Nat.succ_mul] at hin
  omega

/-! #### Block calls, derivations and loops -/

/-- A block call keeps whatever a slot update keeps. -/
theorem blockCall_keeps {P : State → Prop} {dir : Direction} {k : SlotId} {b c : List Byte} {j j' : Job}
    (hset : ∀ t sl, P t → P (t.setSlot k sl)) (hj : P j.st) (h : blockCall dir k b j = .ok (j', c)) : P j'.st := by
  rw [(blockCall_ok h).2.2.1]
  exact hset _ _ hj

/-- The predicate of a job's state, whichever way a computation ends. -/
def endsIn (P : State → Prop) : Except Job Job → Prop
  | .ok j => P j.st
  | .error j => P j.st

/-- The encryptions of a derivation keep whatever a slot update keeps. -/
theorem derivationLoop_keeps {P : State → Prop} {k : SlotId} {bs : Nat} (hset : ∀ t sl, P t → P (t.setSlot k sl)) :
    ∀ (n i : Nat) (buf : List Byte) (j : Job), P j.st →
      endsIn P ((derivationLoop k bs n i buf j).map Prod.fst) := by
  intro n
  induction n with
  | zero => exact fun i buf j hj => hj
  | succ n ih =>
    intro i buf j hj
    cases hb : blockCall .encrypt k (acpkmBlock j.st.par.profile bs i) j with
    | error j1 =>
      simp only [derivationLoop, hb]
      exact (blockCall_error hb).1 ▸ hj
    | ok r =>
      simp only [derivationLoop, hb]
      exact ih _ _ _ (blockCall_keeps hset hj hb)

/-- A derivation keeps whatever a slot update keeps. -/
theorem deriveNext_keeps {P : State → Prop} {k : SlotId} (hset : ∀ t sl, P t → P (t.setSlot k sl)) {j : Job}
    (hj : P j.st) : endsIn P (deriveNext k j) := by
  have hl := derivationLoop_keeps (bs := (j.st.slot k).bs) hset (j.st.slot k).derivationBlocks 0 [] j hj
  unfold deriveNext
  simp only
  split
  · exact hj
  · cases hd : derivationLoop k (j.st.slot k).bs (j.st.slot k).derivationBlocks 0 [] j with
    | error j1 => rw [hd] at hl; exact hl
    | ok r => rw [hd] at hl; exact hset _ _ hl

/-- What each of the bodies `i`, .., `i + n - 1` keeps, the loop over them keeps. -/
theorem blocksLoop_endsIn {body : Nat → Job → Except Job Job} {P : State → Prop} :
    ∀ (n i : Nat) (j : Job), (∀ i' j, i' < i + n → P j.st → endsIn P (body i' j)) → P j.st →
      endsIn P (blocksLoop body n i j) := by
  intro n
  induction n with
  | zero => exact fun i j _ hj => hj
  | succ n ih =>
    intro i j hb hj
    have h := hb i j (by omega) hj
    cases hbi : body i j with
    | error j1 => rw [hbi] at h; simpa only [blocksLoop, hbi] using h
    | ok j1 =>
      rw [hbi] at h
      simp only [blocksLoop, hbi]
      exact ih (i + 1) j1 (fun i' j' hi' => hb i' j' (by omega)) h

/-- A command at work that keeps memory keeps it to its end. -/
theorem finishJob_keepsMem {s : State} {k : SlotId} {req : Nat} {r : Except Job Job} (h : endsIn s.KeepsMem r) :
    s.KeepsMem (finishJob k req r) := by
  cases r with
  | ok j => exact State.KeepsMem.conclude h _ _ _ _
  | error j => exact State.KeepsMem.conclude h _ _ _ _

/-! #### The bodies of the modes -/

theorem ecbBody_keepsMem {s : State} {dir : Direction} {k : SlotId} {src dst bs i : Nat} {j : Job}
    (hj : s.KeepsMem j.st) (hr : 0 < bs → dst + i * bs + bs ≤ s.par.memSize) :
    endsIn s.KeepsMem (ecbBody dir k src dst bs i j) := by
  unfold ecbBody
  cases hb : blockCall dir k (j.st.load (src + i * bs) bs) j with
  | error j1 => exact (blockCall_error hb).1 ▸ hj
  | ok r => exact (blockCall_keeps (fun _ sl h => h.setSlot k sl) hj hb).store _ hr

theorem cbcEncBody_keepsMem {s : State} {k : SlotId} {src dst bs i : Nat} {j : Job}
    (hj : s.KeepsMem j.st) (hr : 0 < bs → dst + i * bs + bs ≤ s.par.memSize) :
    endsIn s.KeepsMem (cbcEncBody k src dst bs i j) := by
  simp only [cbcEncBody]
  cases hb : blockCall .encrypt k (xorBytes (j.st.load (src + i * bs) bs) ((j.st.slot k).chain bs)) j with
  | error j1 => exact (blockCall_error hb).1 ▸ hj
  | ok r => exact ((blockCall_keeps (fun _ sl h => h.setSlot k sl) hj hb).setSlot k _).store _ hr

theorem cbcDecBody_keepsMem {s : State} {k : SlotId} {src dst bs i : Nat} {j : Job}
    (hj : s.KeepsMem j.st) (hr : 0 < bs → dst + i * bs + bs ≤ s.par.memSize) :
    endsIn s.KeepsMem (cbcDecBody k src dst bs i j) := by
  simp only [cbcDecBody]
  cases hb : blockCall .decrypt k (j.st.load (src + i * bs) bs) j with
  | error j1 => exact (blockCall_error hb).1 ▸ hj
  | ok r => exact ((blockCall_keeps (fun _ sl h => h.setSlot k sl) hj hb).setSlot k _).store _ hr

theorem ctrBody_keepsMem {s : State} {k : SlotId} {src dst len bs i : Nat} {j : Job} (hj : s.KeepsMem j.st)
    (hr : 0 < min bs (len - i * bs) → dst + i * bs + min bs (len - i * bs) ≤ s.par.memSize) :
    endsIn s.KeepsMem (ctrBody k src dst len bs i j) := by
  simp only [ctrBody]
  cases hb : blockCall .encrypt k ((j.st.slot k).chain bs) j with
  | error j1 => exact (blockCall_error hb).1 ▸ hj
  | ok r => exact ((blockCall_keeps (fun _ sl h => h.setSlot k sl) hj hb).setSlot k _).store _ hr

theorem acpkmBody_keepsMem {s : State} {section_ : Nat} {k : SlotId} {src dst len bs i : Nat} {j : Job}
    (hj : s.KeepsMem j.st)
    (hr : 0 < min bs (len - i * bs) → dst + i * bs + min bs (len - i * bs) ≤ s.par.memSize) :
    endsIn s.KeepsMem (acpkmBody section_ k src dst len bs i j) := by
  have hd : endsIn s.KeepsMem (if 0 < i ∧ i % section_ = 0 then deriveNext k j else .ok j) := by
    split
    · exact deriveNext_keeps (fun _ sl h => h.setSlot k sl) hj
    · exact hj
  unfold acpkmBody
  split
  · next h => rw [h] at hd; exact hd
  · next h => rw [h] at hd; exact ctrBody_keepsMem hd hr

/-- The chain of CMAC keeps whatever a slot update keeps. -/
theorem cmacChain_keeps {P : State → Prop} {k : SlotId} {src bs : Nat} (hset : ∀ t sl, P t → P (t.setSlot k sl)) :
    ∀ (n i : Nat) (chain : List Byte) (j : Job), P j.st → endsIn P ((cmacChain k src bs n i chain j).map Prod.fst) := by
  intro n
  induction n with
  | zero => exact fun i chain j hj => hj
  | succ n ih =>
    intro i chain j hj
    cases hb : blockCall .encrypt k (xorBytes chain (j.st.load (src + i * bs) bs)) j with
    | error j1 =>
      simp only [cmacChain, hb]
      exact (blockCall_error hb).1 ▸ hj
    | ok r =>
      simp only [cmacChain, hb]
      exact ih _ _ _ (blockCall_keeps hset hj hb)

theorem cmacJob_keepsMem {s : State} {k : SlotId} {src len dst tagLen bs : Nat} {j : Job} (hj : s.KeepsMem j.st)
    (hr : 0 < tagLen → dst + tagLen ≤ s.par.memSize) : endsIn s.KeepsMem (cmacJob k src len dst tagLen bs j) := by
  have hset : ∀ t sl, s.KeepsMem t → s.KeepsMem (t.setSlot k sl) := fun _ sl h => h.setSlot k sl
  simp only [cmacJob]
  cases h1 : blockCall .encrypt k (List.replicate bs 0) j with
  | error j1 => exact (blockCall_error h1).1 ▸ hj
  | ok r1 =>
    obtain ⟨j1, l⟩ := r1
    have hj1 := blockCall_keeps hset hj h1
    have hc := cmacChain_keeps (src := src) (bs := bs) hset (max 1 (ceilDiv len bs) - 1) 0 (List.replicate bs 0) j1 hj1
    simp only
    cases h2 : cmacChain k src bs (max 1 (ceilDiv len bs) - 1) 0 (List.replicate bs 0) j1 with
    | error j2 => rw [h2] at hc; exact hc
    | ok r2 =>
      obtain ⟨j2, chain⟩ := r2
      rw [h2] at hc
      simp only
      split
      · next j3 h3 => exact (blockCall_error h3).1 ▸ hc
      · next j3 tag h3 => exact (blockCall_keeps hset hc h3).store _ hr

/-! #### The commands that write memory -/

theorem ecbCommand_keepsMem {s t : State} {dir : Direction} {k : SlotId} (h : ecbCommand dir k s = .next t) :
    s.KeepsMem t := by
  refine command_keepsMem h fun hc => finishJob_keepsMem ?_
  simp only [firstStop_append_eq_none, contractChecks_pass, Bool.or_eq_false_iff, decide_eq_false_iff_not] at hc
  obtain ⟨⟨-, hrange, ⟨hlen, -⟩, -⟩, -⟩ := hc
  refine blocksLoop_endsIn _ _ _ (fun i j hi hj => ecbBody_keepsMem hj fun hbs => ?_) (.refl s)
  exact Buffer.block_in_range (hrange s.buf1 (by simp)) (not_lt.mp hlen) (by simpa using hi) hbs

theorem cbcCommand_keepsMem {s t : State} {body : SlotId → Nat → Nat → Nat → Nat → Job → Except Job Job} {k : SlotId}
    (hbody : ∀ {src dst bs i : Nat} {j : Job}, s.KeepsMem j.st → (0 < bs → dst + i * bs + bs ≤ s.par.memSize) →
      endsIn s.KeepsMem (body k src dst bs i j))
    (h : cbcCommand body k s = .next t) : s.KeepsMem t := by
  refine command_keepsMem h fun hc => finishJob_keepsMem ?_
  simp only [firstStop_append_eq_none, contractChecks_pass, Bool.or_eq_false_iff, decide_eq_false_iff_not] at hc
  obtain ⟨⟨-, hrange, ⟨hlen, -⟩, -⟩, -⟩ := hc
  refine blocksLoop_endsIn _ _ _ (fun i j hi hj => hbody hj fun hbs => ?_) ((State.KeepsMem.refl s).setSlot k _)
  exact Buffer.block_in_range (hrange s.buf1 (by simp)) (not_lt.mp hlen) (by simpa using hi) hbs

theorem ctrCommand_keepsMem {s t : State} {body : SlotId → Nat → Nat → Nat → Nat → Nat → Job → Except Job Job}
    {extra : List Check} {m : Nat} {k : SlotId}
    (hbody : ∀ {src dst len bs i : Nat} {j : Job}, s.KeepsMem j.st →
      (0 < min bs (len - i * bs) → dst + i * bs + min bs (len - i * bs) ≤ s.par.memSize) →
      endsIn s.KeepsMem (body k src dst len bs i j))
    (h : ctrCommand body extra m k s = .next t) : s.KeepsMem t := by
  refine command_keepsMem h fun hc => finishJob_keepsMem ?_
  simp only [firstStop_append_eq_none, contractChecks_pass, decide_eq_false_iff_not] at hc
  obtain ⟨⟨-, hrange, hlen, -⟩, -⟩ := hc
  refine blocksLoop_endsIn _ _ _ (fun i j _ hj => hbody hj fun hn => ?_) ((State.KeepsMem.refl s).setSlot k _)
  have := Buffer.first_in_range (n := i * (s.slot k).bs + min (s.slot k).bs (s.buf0.len - i * (s.slot k).bs))
    (hrange s.buf1 (by simp)) (by omega) (by omega)
  omega

theorem execCmac_keepsMem {s t : State} {k : SlotId} (h : execCmac k s = .next t) : s.KeepsMem t := by
  refine command_keepsMem h fun hc => finishJob_keepsMem (cmacJob_keepsMem (.refl s) ?_)
  simp only [firstStop_append_eq_none, contractChecks_pass, decide_eq_false_iff_not] at hc
  obtain ⟨⟨-, hrange, hlen, -⟩, -⟩ := hc
  exact Buffer.first_in_range (hrange s.buf1 (by simp)) (by omega)

/-- Past its checks a builder command that writes its result has 256 bytes of memory at the output. -/
theorem builderChecks_out {s : State} {ls : List Check} (hc : firstStop (builderChecks s ls) = none) :
    s.buf1.addr + 256 ≤ s.par.memSize := by
  simp only [builderChecks, firstStop_append_eq_none, contractChecks_pass, decide_eq_false_iff_not] at hc
  obtain ⟨-, hrange, hlen, -⟩ := hc
  exact Buffer.first_in_range (hrange s.buf1 (by simp)) (by omega) (by omega)

theorem execGenMatrix_keepsMem {s t : State} (h : execGenMatrix s = .next t) : s.KeepsMem t :=
  command_keepsMem h fun hc => ((State.KeepsMem.refl s).store _ fun _ => builderChecks_out hc).conclude _ _ _ _

theorem execInvMatrix_keepsMem {s t : State} (h : execInvMatrix s = .next t) : s.KeepsMem t := by
  refine command_keepsMem h fun hc => ?_
  split
  · exact .of_eq rfl rfl
  · exact ((State.KeepsMem.refl s).store _ fun _ => builderChecks_out hc).conclude _ _ _ _

theorem execInvPerm_keepsMem {s t : State} (h : execInvPerm s = .next t) : s.KeepsMem t := by
  refine command_keepsMem h fun hc => ?_
  split
  · exact .of_eq rfl rfl
  · exact ((State.KeepsMem.refl s).store _ fun _ => builderChecks_out hc).conclude _ _ _ _

/-! #### The other instructions write no memory -/

theorem installTables_keepsMem (s : State) (m : Matrix16) (p : ByteTable) : s.KeepsMem (s.installTables m p) := by
  unfold State.installTables
  split
  · exact .of_eq rfl rfl
  · split <;> exact .of_eq rfl rfl

theorem execInitDefault_keepsMem {s t : State} {variant : Variant} (h : execInitDefault variant s = .next t) :
    s.KeepsMem t := by
  refine command_keepsMem h fun _ => ?_
  split
  · exact .of_eq rfl rfl
  · exact installTables_keepsMem s _ _

theorem execSetKeyRandom_keepsMem {s t : State} {k : SlotId} {n : Nat} (h : execSetKeyRandom k n s = .next t) :
    s.KeepsMem t := by
  refine command_keepsMem h fun _ => ?_
  split <;> exact .of_eq rfl rfl

theorem execDeriveNext_keepsMem {s t : State} {k : SlotId} (h : execDeriveNext k s = .next t) : s.KeepsMem t :=
  command_keepsMem h fun _ => finishJob_keepsMem (deriveNext_keeps (fun _ sl h => h.setSlot k sl) (.refl s))

theorem execDestroy_keepsMem {s t : State} {k : SlotId} (h : execDestroy k s = .next t) : s.KeepsMem t := by
  refine command_keepsMem h fun _ => ?_
  split <;> exact .of_eq rfl rfl

/-- A result of the internal operations changes the latches and at most the number of draws. -/
theorem State.keepsMem_setTableV (s : State) (v : Vec16) : s.KeepsMem (s.setTableV v) := by
  unfold State.setTableV
  split <;> exact .of_eq rfl rfl

theorem State.keepsMem_setV (s : State) (v : Vec16) : s.KeepsMem (s.setV v) := .of_eq rfl rfl

/-- An operation that answers `u` outright keeps what `u` keeps. -/
theorem State.KeepsMem.of_next_eq {s t u : State} (hu : s.KeepsMem u)
    (h : (.next u : Host.Outcome State Fault Refusal) = .next t) : s.KeepsMem t :=
  Host.Outcome.next.inj h ▸ hu

theorem blockEntry_keepsMem {s t : State} {dir : Direction} (h : blockEntry dir s = .next t) : s.KeepsMem t := by
  simp only [blockEntry] at h
  split at h
  · cases h
  split at h
  · cases h
  split at h
  · exact (s.keepsMem_setV _).of_next_eq h
  · exact (s.keepsMem_setTableV _).of_next_eq h

theorem execScheduleKeys_keepsMem {s t : State} (h : execScheduleKeys s = .next t) : s.KeepsMem t := by
  simp only [execScheduleKeys] at h
  split at h
  · cases h
  split at h
  · cases h
  split at h <;> cases h <;> exact .of_eq rfl rfl

theorem execLinearLast_keepsMem {s t : State} (h : execLinearLast s = .next t) : s.KeepsMem t := by
  simp only [execLinearLast] at h
  split at h
  · exact (s.keepsMem_setTableV _).of_next_eq h
  · exact (s.keepsMem_setV _).of_next_eq h

theorem execInvLinearLast_keepsMem {s t : State} (h : execInvLinearLast s = .next t) : s.KeepsMem t := by
  simp only [execInvLinearLast] at h
  split at h
  · exact (s.keepsMem_setTableV _).of_next_eq h
  · exact (s.keepsMem_setV _).of_next_eq h

theorem aesStage_keepsMem {s t : State} {f : Vec16 → Vec16} (h : aesStage f s = .next t) : s.KeepsMem t := by
  unfold aesStage at h
  split at h
  · exact (s.keepsMem_setV _).of_next_eq h
  · cases h

/-- Every instruction keeps memory canonical and in range, and the parameters. -/
theorem exec_keepsMem {i : Instr} {s t : State} (h : exec i s = .next t) : s.KeepsMem t := by
  cases i with
  | genMatrix => exact execGenMatrix_keepsMem h
  | invMatrix => exact execInvMatrix_keepsMem h
  | invPerm => exact execInvPerm_keepsMem h
  | initTables => exact command_keepsMem h fun _ => installTables_keepsMem s _ _
  | initDefault variant => exact execInitDefault_keepsMem h
  | create k n => exact command_keepsMem h fun _ => .of_eq rfl rfl
  | bind k kind => exact command_keepsMem h fun _ => .of_eq rfl rfl
  | setKey k => exact command_keepsMem h fun _ => .of_eq rfl rfl
  | setKeyRandom k n => exact execSetKeyRandom_keepsMem h
  | deriveNext k => exact execDeriveNext_keepsMem h
  | destroy k => exact execDestroy_keepsMem h
  | ecbEnc k | ecbDec k => exact ecbCommand_keepsMem h
  | cbcEnc k => exact cbcCommand_keepsMem cbcEncBody_keepsMem h
  | cbcDec k => exact cbcCommand_keepsMem cbcDecBody_keepsMem h
  | ctr k => exact ctrCommand_keepsMem ctrBody_keepsMem h
  | ctrAcpkm k => exact ctrCommand_keepsMem acpkmBody_keepsMem h
  | cmac k => exact execCmac_keepsMem h
  | encryptBlock | decryptBlock => exact blockEntry_keepsMem h
  | scheduleKeys => exact execScheduleKeys_keepsMem h
  | eraseKeys => exact State.KeepsMem.of_next_eq ((State.KeepsMem.refl s).setSlot _ _) h
  | addRoundKey | lfsrStep => exact (s.keepsMem_setV _).of_next_eq h
  | subBytes | linear | invSubBytes | invLinear | roundT | invRoundT => exact (s.keepsMem_setTableV _).of_next_eq h
  | linearLast => exact execLinearLast_keepsMem h
  | invLinearLast => exact execInvLinearLast_keepsMem h
  | shiftRows | mixColumns | invShiftRows | invMixColumns => exact aesStage_keepsMem h

/-! #### Events -/

theorem issueInternal_keepsMem {c : Code} {s t : State} (h : issueInternal c s = .next t) : s.KeepsMem t := by
  unfold issueInternal at h
  split at h
  · exact exec_keepsMem h
  · cases h

/-- A code that is issued, legal or not. -/
theorem issue_keepsMem {c : Code} {s t : State} (h : issue c s = .next t) : s.KeepsMem t := by
  cases c with
  | command w =>
    simp only [issue, issueCommand] at h
    split at h
    · refine State.KeepsMem.trans ?_ (exec_keepsMem h)
      exact .of_eq rfl rfl
    · cases h
      unfold State.endInvalid
      split <;> exact .of_eq rfl rfl
  | entry e => exact issueInternal_keepsMem (c := .entry e) h
  | micro e => exact issueInternal_keepsMem (c := .micro e) h

theorem hostWriteMem_keepsMem {addr : Word} {bytes : List Byte} {s t : State} (h : hostWriteMem addr bytes s = .next t) :
    s.KeepsMem t := by
  unfold hostWriteMem at h
  split at h <;> cases h
  next hr => exact (State.KeepsMem.refl s).store _ fun _ => by omega

theorem runEvent_keepsMem {e : Event} {s t : State} (h : runEvent e s = .next t) : s.KeepsMem t := by
  cases e with
  | writeP i v => cases h; exact .of_eq rfl rfl
  | writeMem addr bytes => exact hostWriteMem_keepsMem h
  | issue c => exact issue_keepsMem h
  | latch q => cases h; exact .of_eq rfl rfl
  | reset cells tables =>
    cases h
    exact ⟨rfl, fun _ => ⟨Memory.wf_ofCells _ _, fun c hc => Memory.lt_of_mem_ofCells hc⟩⟩

/-- One step, whatever its event. -/
theorem step_keepsMem {s t : State} (h : step s = .next t) : s.KeepsMem t := by
  simp only [step, nextEvent] at h
  split at h
  · cases h; exact .refl s
  · refine State.KeepsMem.trans ?_ (runEvent_keepsMem h)
    exact .of_eq rfl rfl

/-- Settles O57: every store stands behind the contract checks or the host's own range check. -/
theorem memoryInvariant : Obligations.MemoryInvariant :=
  ⟨fun _ _ hs h => (step_keepsMem h).2 hs, fun _ _ h => (step_keepsMem h).1⟩

end Sys2Proof.Machine
end

section
/-! ### GF(2^8) as a quotient ring

Bytes with `gf_add` and `gf_mul` (40_table_builder.md R101, R102) are the residues of binary polynomials modulo the field polynomial:
`gfOf` is that identification. A law of the quotient ring is a law of the model's arithmetic, and where the polynomial is
irreducible the quotient is a field. -/

namespace Sys2Proof

open Polynomial

/-! #### Numbers as binary polynomials -/

/-- The binary polynomial whose coefficients are the lowest `k` bits of a number. -/
noncomputable def bitSum (n k : Nat) : (ZMod 2)[X] := ∑ i ∈ Finset.range k, if n.testBit i then X ^ i else 0

/-- The binary polynomial whose coefficients are the bits of a number. -/
noncomputable def bitPoly (n : Nat) : (ZMod 2)[X] := bitSum n n

theorem coeff_bitSum {n k : Nat} (h : n < 2 ^ k) (i : Nat) : (bitSum n k).coeff i = if n.testBit i then 1 else 0 := by
  have hterm : ∀ j, (if n.testBit j then (X : (ZMod 2)[X]) ^ j else 0).coeff i =
      if i = j then (if n.testBit i then 1 else 0) else 0 := by
    intro j
    by_cases hij : i = j
    · subst hij; split <;> simp
    · split <;> simp [hij, coeff_X_pow]
  rw [bitSum, finsetSum_coeff, Finset.sum_congr rfl fun j _ => hterm j, Finset.sum_ite_eq]
  by_cases hi : i < k
  · simp [hi]
  · simp [hi, Nat.testBit_lt_two_pow (h.trans_le (Nat.pow_le_pow_right (by decide) (not_lt.mp hi)))]

@[simp] theorem coeff_bitPoly (n i : Nat) : (bitPoly n).coeff i = if n.testBit i then 1 else 0 :=
  coeff_bitSum n.lt_two_pow_self i

theorem bitPoly_eq_bitSum {n k : Nat} (h : n < 2 ^ k) : bitPoly n = bitSum n k := by
  ext i
  rw [coeff_bitPoly, coeff_bitSum h]

theorem bitPoly_injective : Function.Injective bitPoly := by
  intro a b h
  refine Nat.eq_of_testBit_eq fun i => ?_
  have := congrArg (fun p => p.coeff i) h
  simp only [coeff_bitPoly] at this
  cases ha : a.testBit i <;> cases hb : b.testBit i <;> simp [ha, hb] at this ⊢

theorem bitPoly_xor (a b : Nat) : bitPoly (a ^^^ b) = bitPoly a + bitPoly b := by
  ext i
  simp only [coeff_bitPoly, coeff_add, Nat.testBit_xor]
  cases a.testBit i <;> cases b.testBit i <;> decide

@[simp] theorem bitPoly_zero : bitPoly 0 = 0 := rfl

@[simp] theorem bitPoly_one : bitPoly 1 = 1 := by simp [bitPoly, bitSum]

theorem bitPoly_shiftLeft (a k : Nat) : bitPoly (a <<< k) = X ^ k * bitPoly a := by
  ext i
  simp only [coeff_bitPoly, coeff_X_pow_mul', Nat.testBit_shiftLeft]
  by_cases h : k ≤ i <;> simp [h]

theorem bitPoly_two_mul (a : Nat) : bitPoly (2 * a) = X * bitPoly a := by
  rw [← pow_one (X : (ZMod 2)[X]), ← bitPoly_shiftLeft, Nat.shiftLeft_eq, pow_one, mul_comm]

theorem degree_bitPoly_lt {n k : Nat} (h : n < 2 ^ k) : (bitPoly n).degree < k := by
  rw [degree_lt_iff_coeff_zero]
  intro i hi
  rw [coeff_bitPoly, Nat.testBit_lt_two_pow (h.trans_le (Nat.pow_le_pow_right (by decide) hi))]
  rfl

/-- A number with top bit `k` is a monic polynomial of degree `k`. -/
theorem bitPoly_two_pow_add {k x : Nat} (hx : x < 2 ^ k) : bitPoly (2 ^ k + x) = X ^ k + bitPoly x := by
  ext i
  rw [← Nat.mul_one (2 ^ k), Nat.two_pow_add_eq_or_of_lt hx, Nat.mul_one]
  simp only [coeff_bitPoly, coeff_add, coeff_X_pow, Nat.testBit_or, Nat.testBit_two_pow]
  obtain rfl | h := eq_or_ne i k
  · simp [Nat.testBit_lt_two_pow hx]
  · simp [h, h.symm]

/-- The lowest bit and the rest. -/
theorem bitPoly_half (n : Nat) : bitPoly n = (if n.testBit 0 then 1 else 0) + X * bitPoly (n / 2) := by
  ext i
  cases i with
  | zero => cases h : n.testBit 0 <;> simp [h]
  | succ i => split <;> simp [coeff_one, Nat.testBit_succ]

/-- Every polynomial of degree below `k` is the polynomial of a number below `2^k`. -/
theorem exists_bitPoly_eq {p : (ZMod 2)[X]} {k : Nat} (h : p.degree < k) : ∃ n < 2 ^ k, bitPoly n = p := by
  refine ⟨Nat.ofBits fun i : Fin k => decide (p.coeff i = 1), Nat.ofBits_lt_two_pow _, ?_⟩
  ext i
  rw [coeff_bitPoly]
  by_cases hi : i < k
  · rw [Nat.testBit_ofBits_lt _ _ hi]
    obtain h0 | h1 : p.coeff i = 0 ∨ p.coeff i = 1 := by
      generalize p.coeff i = c
      revert c
      decide
    · simp [h0]
    · simp [h1]
  · rw [Nat.testBit_ofBits_ge _ _ (not_lt.mp hi), (degree_lt_iff_coeff_zero p k).mp h i (not_lt.mp hi)]
    rfl

/-- Every monic polynomial of degree `k` is the polynomial of a number with top bit `k`. -/
theorem exists_bitPoly_eq_of_monic {p : (ZMod 2)[X]} (hp : p.Monic) :
    ∃ x < 2 ^ p.natDegree, bitPoly (2 ^ p.natDegree + x) = p := by
  have hdeg : (p - X ^ p.natDegree).degree < (p.natDegree : WithBot Nat) := by
    have := degree_sub_lt_left (q := X ^ p.natDegree) (by rw [degree_X_pow, degree_eq_natDegree hp.ne_zero]) hp.ne_zero
      (by rw [hp.leadingCoeff, leadingCoeff_X_pow])
    rwa [degree_eq_natDegree hp.ne_zero] at this
  obtain ⟨x, hx, hpx⟩ := exists_bitPoly_eq hdeg
  exact ⟨x, hx, by rw [bitPoly_two_pow_add hx, hpx, add_sub_cancel]⟩

/-! #### Irreducibility of the field polynomial -/

/-- `clmul` is the product of polynomials, for a first factor of degree at most 4. -/
theorem bitPoly_clmul {a : Nat} (ha : a < 32) (b : Nat) : bitPoly (clmul a b) = bitPoly a * bitPoly b := by
  have hstep : ∀ (acc i : Nat), bitPoly (if a.testBit i then acc ^^^ (b <<< i) else acc) =
      bitPoly acc + (if a.testBit i then X ^ i else 0) * bitPoly b := by
    intro acc i
    split
    · rw [bitPoly_xor, bitPoly_shiftLeft]
    · simp
  rw [bitPoly_eq_bitSum (n := a) (k := 5) ha]
  simp only [clmul, bitSum, Finset.sum_range_succ, List.range_succ, List.range_zero, List.nil_append, List.cons_append,
    List.foldl_cons, List.foldl_nil, hstep, bitPoly_zero, Finset.sum_range_zero]
  ring

/-- The field polynomial is monic of degree 8. -/
theorem bitPoly_poly {poly : BitVec 9} (h : poly.getLsbD 8 = true) :
    (bitPoly poly.toNat).Monic ∧ (bitPoly poly.toNat).natDegree = 8 := by
  have hlt : (bitPoly poly.toNat).degree < 9 := degree_bitPoly_lt poly.isLt
  have hc : (bitPoly poly.toNat).coeff 8 = 1 := by
    exact (coeff_bitPoly _ _).trans (if_pos h)
  have hdeg : (bitPoly poly.toNat).natDegree = 8 := by
    refine le_antisymm ?_ (le_natDegree_of_ne_zero (by rw [hc]; decide))
    exact Nat.lt_succ_iff.mp ((natDegree_lt_iff_degree_lt (by rintro h0; simp [h0] at hc)).mpr hlt)
  exact ⟨by rw [Monic, leadingCoeff, hdeg, hc], hdeg⟩

/-- The condition of 00_scope.md R8 is irreducibility over GF(2). -/
theorem PolyOk.irreducible {poly : BitVec 9} (h : PolyOk poly) : Irreducible (bitPoly poly.toNat) := by
  obtain ⟨h8, hfac⟩ := h
  obtain ⟨hmonic, hdeg⟩ := bitPoly_poly h8
  rw [hmonic.irreducible_iff_natDegree', hdeg]
  refine ⟨fun h1 => by simp [h1] at hdeg, fun f g hf hg hfg hd => ?_⟩
  have hsum : f.natDegree + g.natDegree = 8 := by rw [← hf.natDegree_mul hg, hfg, hdeg]
  obtain ⟨h0, h4⟩ := Finset.mem_Ioc.mp hd
  obtain ⟨x, hx, hgx⟩ := exists_bitPoly_eq_of_monic hg
  obtain ⟨y, hy, hfy⟩ := exists_bitPoly_eq_of_monic hf
  have hdf : f.natDegree = 8 - g.natDegree := by omega
  rw [hdf] at hy hfy
  have h32 : 2 ^ g.natDegree + x < 32 := by
    have : 2 ^ g.natDegree ≤ 2 ^ 4 := Nat.pow_le_pow_right (by decide) (by omega)
    omega
  refine hfac g.natDegree (by simp; omega) x (List.mem_range.mpr hx) y (List.mem_range.mpr hy) (bitPoly_injective ?_)
  rw [bitPoly_clmul h32, hgx, hfy, mul_comm, hfg]

/-! #### Bytes as residues -/

/-- The quotient of the binary polynomials by the field polynomial. -/
abbrev GF (poly : BitVec 9) : Type := AdjoinRoot (bitPoly poly.toNat)

/-- The residue that a number stands for. -/
noncomputable def gfNat (poly : BitVec 9) (n : Nat) : GF poly := AdjoinRoot.mk _ (bitPoly n)

/-- The residue that a byte stands for. -/
noncomputable def gfOf (poly : BitVec 9) (a : Byte) : GF poly := gfNat poly a.toNat

/-- The residue of the indeterminate. -/
noncomputable def gfX (poly : BitVec 9) : GF poly := AdjoinRoot.mk _ X

section
variable (poly : BitVec 9)

theorem gfNat_xor (a b : Nat) : gfNat poly (a ^^^ b) = gfNat poly a + gfNat poly b := by
  rw [gfNat, bitPoly_xor, map_add]; rfl

theorem gfNat_two_mul (a : Nat) : gfNat poly (2 * a) = gfX poly * gfNat poly a := by
  rw [gfNat, bitPoly_two_mul, map_mul]; rfl

theorem gfNat_half (n : Nat) :
    gfNat poly n = (if n.testBit 0 then 1 else 0 : GF poly) + gfX poly * gfNat poly (n / 2) := by
  have h := congrArg (AdjoinRoot.mk (bitPoly poly.toNat)) (bitPoly_half n)
  rwa [map_add, map_mul, apply_ite (AdjoinRoot.mk _), map_one, map_zero] at h

@[simp] theorem gfNat_poly : gfNat poly poly.toNat = 0 := AdjoinRoot.mk_self

@[simp] theorem gfNat_zero : gfNat poly 0 = 0 := by rw [gfNat, bitPoly_zero, map_zero]

@[simp] theorem gfNat_one : gfNat poly 1 = 1 := by rw [gfNat, bitPoly_one, map_one]

@[simp] theorem gfOf_zero : gfOf poly 0#8 = 0 := gfNat_zero poly

@[simp] theorem gfOf_one : gfOf poly 1#8 = 1 := gfNat_one poly

@[simp] theorem gfOf_xor (a b : Byte) : gfOf poly (a ^^^ b) = gfOf poly a + gfOf poly b := by
  rw [gfOf, BitVec.toNat_xor, gfNat_xor]; rfl

/-- The quotient has characteristic 2. -/
theorem gf_add_self (x : GF poly) : x + x = 0 := by
  obtain ⟨p, rfl⟩ := AdjoinRoot.mk_surjective x
  rw [← map_add, CharTwo.add_self_eq_zero, map_zero]

@[simp] theorem gfOf_xorSum (f : Fin 16 → Byte) : gfOf poly (xorSum f) = ∑ i, gfOf poly (f i) := by
  simp [xorSum_eq, Fin.sum_univ_succ, add_assoc]

end

section
variable {poly : BitVec 9} (h8 : poly.getLsbD 8 = true)
include h8

/-- Doubling stays below 256 and multiplies by the indeterminate. -/
theorem gfDouble_spec {a : BitVec 9} (ha : a.toNat < 256) :
    (gfDouble poly a).toNat < 256 ∧ gfNat poly (gfDouble poly a).toNat = gfX poly * gfNat poly a.toNat := by
  have h2 : (a <<< 1).toNat = 2 * a.toNat := by
    rw [BitVec.toNat_shiftLeft, Nat.shiftLeft_eq]
    omega
  have hbit : (a <<< 1).getLsbD 8 = (2 * a.toNat).testBit 8 := by rw [← h2]; rfl
  by_cases hb : (a <<< 1).getLsbD 8 = true
  · have htop : ((a <<< 1) ^^^ poly).getLsbD 8 = false := by rw [BitVec.getLsbD_xor, hb, h8]; rfl
    have hlt : ((a <<< 1) ^^^ poly).toNat < 2 ^ 8 := by
      refine Nat.lt_pow_two_of_testBit _ fun i hi => ?_
      obtain rfl | hi := Nat.eq_or_lt_of_le hi
      · exact htop
      · exact BitVec.getLsbD_of_ge _ _ hi
    simp only [gfDouble, hb, if_true]
    exact ⟨hlt, by rw [BitVec.toNat_xor, gfNat_xor, gfNat_poly, add_zero, h2, gfNat_two_mul]⟩
  · have hlt : 2 * a.toNat < 256 := by
      by_contra hge
      rw [hbit] at hb
      have : 2 * a.toNat / 256 = 1 := by omega
      exact hb (by simp [Nat.testBit, Nat.shiftRight_eq_div_pow, this])
    simp only [gfDouble, hb]
    exact ⟨by simpa [h2] using hlt, by simp [h2, gfNat_two_mul]⟩

/-- The loop of R102 adds to `r` the product of `a` and `b`. -/
theorem gfMulLoop_spec (n : Nat) {r a : BitVec 9} {b : Byte} (hr : r.toNat < 256) (ha : a.toNat < 256)
    (hb : b.toNat < 2 ^ n) :
    (gfMulLoop poly n r a b).toNat < 256 ∧
      gfNat poly (gfMulLoop poly n r a b).toNat = gfNat poly r.toNat + gfNat poly a.toNat * gfNat poly b.toNat := by
  induction n generalizing r a b with
  | zero =>
    have : b.toNat = 0 := by omega
    exact ⟨hr, by simp [gfMulLoop, this]⟩
  | succ n ih =>
    obtain ⟨hd, hdx⟩ := gfDouble_spec h8 ha
    have hr' : (if b.getLsbD 0 then r ^^^ a else r).toNat < 256 := by
      split
      · rw [BitVec.toNat_xor]
        exact Nat.xor_lt_two_pow (n := 8) hr ha
      · exact hr
    have hrx : gfNat poly (if b.getLsbD 0 then r ^^^ a else r).toNat =
        gfNat poly r.toNat + gfNat poly a.toNat * (if b.getLsbD 0 then 1 else 0 : GF poly) := by
      split
      · rw [BitVec.toNat_xor, gfNat_xor, mul_one]
      · rw [mul_zero, add_zero]
    have hhalf : (b >>> 1).toNat = b.toNat / 2 := by rw [BitVec.toNat_ushiftRight, Nat.shiftRight_one]
    have hbx : gfNat poly b.toNat = (if b.getLsbD 0 then 1 else 0 : GF poly) + gfX poly * gfNat poly (b >>> 1).toNat := by
      rw [hhalf]
      exact gfNat_half poly b.toNat
    obtain ⟨hlt, hx⟩ := ih (b := b >>> 1) hr' hd (by rw [hhalf]; omega)
    refine ⟨hlt, ?_⟩
    rw [gfMulLoop, hx, hrx, hdx, hbx]
    ring

/-- `gf_mul` is the product of residues. -/
theorem gfOf_mul (a b : Byte) : gfOf poly (gfMul poly a b) = gfOf poly a * gfOf poly b := by
  have ha : (a.setWidth 9).toNat = a.toNat := by
    rw [BitVec.toNat_setWidth]
    omega
  obtain ⟨hlt, hx⟩ := gfMulLoop_spec h8 8 (r := 0) (a := a.setWidth 9) (b := b) (by decide) (by omega) b.isLt
  rw [gfOf, gfMul, BitVec.toNat_setWidth, Nat.mod_eq_of_lt hlt, hx, ha]
  simp [gfOf]

/-- Two bytes with one residue are equal. -/
theorem gfOf_injective : Function.Injective (gfOf poly) := by
  intro a b h
  have hsub : bitPoly a.toNat - bitPoly b.toNat = bitPoly (a ^^^ b).toNat := by
    rw [BitVec.toNat_xor, bitPoly_xor, CharTwo.sub_eq_add]
  have hdvd := hsub ▸ AdjoinRoot.mk_eq_mk.mp h
  have hdeg : (bitPoly poly.toNat).degree = 8 := by
    obtain ⟨hm, hd⟩ := bitPoly_poly h8
    rw [degree_eq_natDegree hm.ne_zero, hd]
    rfl
  have h0 := eq_zero_of_dvd_of_degree_lt hdvd (by rw [hdeg]; exact degree_bitPoly_lt (a ^^^ b).isLt)
  rw [← bitPoly_zero] at h0
  exact BitVec.xor_eq_zero_iff.mp (BitVec.eq_of_toNat_eq (bitPoly_injective h0))

/-- Every residue is that of a byte. -/
theorem gfOf_surjective : Function.Surjective (gfOf poly) := by
  intro x
  obtain ⟨p, rfl⟩ := AdjoinRoot.mk_surjective x
  obtain ⟨hm, hd⟩ := bitPoly_poly h8
  have hdeg : (p %ₘ bitPoly poly.toNat).degree < (8 : Nat) := by
    have := degree_modByMonic_lt p hm
    rwa [degree_eq_natDegree hm.ne_zero, hd] at this
  obtain ⟨n, hn, hp⟩ := exists_bitPoly_eq hdeg
  refine ⟨BitVec.ofNat 8 n, ?_⟩
  rw [gfOf, BitVec.toNat_ofNat, Nat.mod_eq_of_lt hn, gfNat, hp, AdjoinRoot.mk_eq_mk, modByMonic_eq_sub_mul_div]
  exact ⟨-(p /ₘ bitPoly poly.toNat), by ring⟩

end

/-! #### The laws of `gf_mul` that proofs use -/

section
variable {poly : BitVec 9} (h8 : poly.getLsbD 8 = true)
include h8

theorem gfMul_comm (a b : Byte) : gfMul poly a b = gfMul poly b a :=
  gfOf_injective h8 (by rw [gfOf_mul h8, gfOf_mul h8, mul_comm])

theorem gfMul_one (a : Byte) : gfMul poly a 1 = a :=
  gfOf_injective h8 (by rw [gfOf_mul h8, show (1 : Byte) = 1#8 from rfl, gfOf_one, mul_one])

end

/-- Under an irreducible polynomial `INVTAB` inverts every nonzero byte (R103). -/
theorem gfMul_gfInv {poly : BitVec 9} (h : PolyOk poly) {a : Byte} (ha : a ≠ 0) : gfMul poly a (gfInv poly a) = 1 := by
  have : Fact (Irreducible (bitPoly poly.toNat)) := ⟨h.irreducible⟩
  have ha' : gfOf poly a ≠ 0 := fun h0 => ha (gfOf_injective h.1 (h0.trans (gfOf_zero poly).symm))
  obtain ⟨y, hy⟩ := gfOf_surjective h.1 (gfOf poly a)⁻¹
  have hone : gfMul poly a y = 1 := gfOf_injective h.1 (by
    rw [gfOf_mul h.1, hy, mul_inv_cancel₀ ha']
    exact (gfOf_one poly).symm)
  unfold gfInv
  cases hf : (List.range 256).find? fun y => decide (gfMul poly a (BitVec.ofNat 8 y) = 1) with
  | some y => simpa using List.find?_some hf
  | none =>
    have := List.find?_eq_none.mp hf y.toNat (List.mem_range.mpr y.isLt)
    simp [hone] at this

end Sys2Proof
end

section
/-! ### Matrices over GF(2^8), and the elimination

`matOf` carries a matrix of bytes to a matrix over the quotient ring, where `mat_mul` is the product (40_table_builder.md R105) and
`invert_matrix` (R112) multiplies both of its matrices by one invertible matrix per column. -/

namespace Sys2Proof

open Matrix

/-- Two vectors with the same lanes are equal. -/
theorem Vec16.ext {v w : Vec16} (h : ∀ i : Fin 16, v[i] = w[i]) : v = w :=
  Vector.ext fun i hi => h ⟨i, hi⟩

/-- Two matrices with the same entries are equal. -/
theorem Matrix16.ext {a b : Matrix16} (h : ∀ i j : Fin 16, (a[i])[j] = (b[i])[j]) : a = b :=
  Vector.ext fun i hi => Vec16.ext fun j => h ⟨i, hi⟩ j

/-! #### From bytes to the quotient ring -/

/-- A vector of bytes over the quotient ring. -/
noncomputable def vecOf (poly : BitVec 9) (v : Vec16) : Fin 16 → GF poly := fun i => gfOf poly v[i]

/-- A matrix of bytes over the quotient ring. -/
noncomputable def matOf (poly : BitVec 9) (m : Matrix16) : Matrix (Fin 16) (Fin 16) (GF poly) := fun i j => gfOf poly (m[i])[j]

section
variable (poly : BitVec 9)

@[simp] theorem vecOf_apply (v : Vec16) (i : Fin 16) : vecOf poly v i = gfOf poly v[i] := rfl

@[simp] theorem matOf_apply (m : Matrix16) (i j : Fin 16) : matOf poly m i j = gfOf poly (m[i])[j] := rfl

@[simp] theorem matOf_identity16 : matOf poly identity16 = 1 := by
  ext i j
  by_cases h : i = j
  · subst h; simp
  · have : j.val ≠ i.val := fun e => h (Fin.ext e.symm)
    simp [this, Matrix.one_apply_ne h]

@[simp] theorem vecOf_xorVec (v w : Vec16) : vecOf poly (xorVec v w) = vecOf poly v + vecOf poly w := by
  ext i
  simp [xorVec]

end

section
variable {poly : BitVec 9} (h8 : poly.getLsbD 8 = true)
include h8

theorem vecOf_injective : Function.Injective (vecOf poly) :=
  fun _ _ h => Vec16.ext fun i => gfOf_injective h8 (congrFun h i)

theorem matOf_injective : Function.Injective (matOf poly) :=
  fun _ _ h => Matrix16.ext fun i j => gfOf_injective h8 (congrFun (congrFun h i) j)

theorem matOf_surjective : Function.Surjective (matOf poly) := by
  intro M
  choose f hf using fun i j => gfOf_surjective h8 (M i j)
  exact ⟨Vector.ofFn fun i => Vector.ofFn fun j => f i j, by ext i j; simp [hf]⟩

theorem matOf_matMul (a b : Matrix16) : matOf poly (matMul poly a b) = matOf poly a * matOf poly b := by
  ext i j
  simp [matMul, Matrix.mul_apply, gfOf_mul h8]

theorem vecOf_matApply (m : Matrix16) (v : Vec16) : vecOf poly (matApply poly m v) = matOf poly m *ᵥ vecOf poly v := by
  ext i
  simp [matApply, Matrix.mulVec, dotProduct, gfOf_mul h8]

/-- A product applies as the composition (R105). -/
theorem matApply_matMul (a b : Matrix16) (v : Vec16) :
    matApply poly (matMul poly a b) v = matApply poly a (matApply poly b v) :=
  vecOf_injective h8 (by simp only [vecOf_matApply h8, matOf_matMul h8, Matrix.mulVec_mulVec])

theorem matApply_identity16 (v : Vec16) : matApply poly identity16 v = v :=
  vecOf_injective h8 (by rw [vecOf_matApply h8, matOf_identity16, Matrix.one_mulVec])

theorem matApply_xorVec (m : Matrix16) (v w : Vec16) :
    matApply poly m (xorVec v w) = xorVec (matApply poly m v) (matApply poly m w) :=
  vecOf_injective h8 (by simp only [vecOf_matApply h8, vecOf_xorVec, Matrix.mulVec_add])

/-- Of two square matrices a left inverse is a right inverse. -/
theorem matInverse_iff {m b : Matrix16} : MatInverse poly m b ↔ matOf poly b * matOf poly m = 1 := by
  have hone : ∀ a c : Matrix16, matMul poly a c = identity16 ↔ matOf poly a * matOf poly c = 1 := fun a c => by
    rw [← (matOf_injective h8).eq_iff, matOf_matMul h8, matOf_identity16]
  simp only [MatInverse, hone]
  exact ⟨And.left, fun h => ⟨h, mul_eq_one_comm.mp h⟩⟩

theorem invertible_iff {m : Matrix16} : Invertible poly m ↔ IsUnit (matOf poly m) := by
  simp only [Invertible, matInverse_iff h8]
  rw [isUnit_iff_exists_inv']
  refine ⟨fun ⟨b, hb⟩ => ⟨_, hb⟩, fun ⟨B, hB⟩ => ?_⟩
  obtain ⟨b, rfl⟩ := matOf_surjective h8 B
  exact ⟨b, hB⟩

/-- The inverse undoes the matrix on every vector. -/
theorem MatInverse.apply_apply {m b : Matrix16} (h : MatInverse poly m b) (v : Vec16) :
    matApply poly b (matApply poly m v) = v := by
  rw [← matApply_matMul h8, h.1, matApply_identity16 h8]

end

theorem MatInverse.symm {poly : BitVec 9} {m b : Matrix16} (h : MatInverse poly m b) : MatInverse poly b m := ⟨h.2, h.1⟩

/-! #### Row operations -/

/-- An operation on matrices that is the multiplication from the left by an invertible matrix. -/
def IsRowOp (poly : BitVec 9) (op : Matrix16 → Matrix16) : Prop :=
  ∃ E : Matrix (Fin 16) (Fin 16) (GF poly), IsUnit E ∧ ∀ m, matOf poly (op m) = E * matOf poly m

theorem IsRowOp.comp {poly : BitVec 9} {f g : Matrix16 → Matrix16} (hf : IsRowOp poly f) (hg : IsRowOp poly g) :
    IsRowOp poly (f ∘ g) := by
  obtain ⟨E, hE, hf⟩ := hf
  obtain ⟨F, hF, hg⟩ := hg
  exact ⟨E * F, hE.mul hF, fun m => by rw [Function.comp_apply, hf, hg, Matrix.mul_assoc]⟩

theorem swapRows_get (m : Matrix16) (c r i : Fin 16) :
    (swapRows m c r)[i] = if i = c then m[r] else if i = r then m[c] else m[i] := by
  simp [swapRows]

theorem scaleRow_get (poly : BitVec 9) (m : Matrix16) (c i : Fin 16) (s : Byte) :
    (scaleRow poly m c s)[i] = if i = c then scaleVec poly s m[i] else m[i] := by
  simp [scaleRow]

theorem clearColumn_get (poly : BitVec 9) (m : Matrix16) (c r : Fin 16) (f : Vec16) :
    (clearColumn poly m c f)[r] = if r = c ∨ f[r] = 0 then m[r] else xorVec m[r] (scaleVec poly f[r] m[c]) := by
  simp [clearColumn]

theorem scaleVec_get (poly : BitVec 9) (c : Byte) (v : Vec16) (i : Fin 16) :
    (scaleVec poly c v)[i] = gfMul poly c v[i] := by
  simp [scaleVec]

theorem xorVec_get (v w : Vec16) (i : Fin 16) : (xorVec v w)[i] = v[i] ^^^ w[i] := by
  simp [xorVec]

theorem isRowOp_swapRows (poly : BitVec 9) (c r : Fin 16) : IsRowOp poly fun m => swapRows m c r := by
  refine ⟨Matrix.swap (GF poly) c r, ⟨⟨_, _, Matrix.swap_mul_self c r, Matrix.swap_mul_self c r⟩, rfl⟩, fun m => ?_⟩
  ext i j
  rw [matOf_apply, swapRows_get]
  split
  · next h => subst h; simp
  · next hc =>
    split
    · next h => subst h; simp
    · next hr => simp [Matrix.swap_mul_of_ne, hc, hr]

/-- The matrix that multiplies row `c` by a factor. -/
noncomputable def scaleMatrix (poly : BitVec 9) (c : Fin 16) (s : Byte) : Matrix (Fin 16) (Fin 16) (GF poly) :=
  Matrix.diagonal fun i => if i = c then gfOf poly s else 1

/-- The multiples of row `c` for the other rows. -/
noncomputable def clearPart (poly : BitVec 9) (c : Fin 16) (f : Vec16) : Matrix (Fin 16) (Fin 16) (GF poly) :=
  Matrix.vecMulVec (fun r => if r = c then 0 else gfOf poly f[r]) (Pi.single c 1)

theorem isRowOp_scaleRow {poly : BitVec 9} (h : PolyOk poly) (c : Fin 16) {s : Byte} (hs : s ≠ 0) :
    IsRowOp poly fun m => scaleRow poly m c s := by
  have hunit : IsUnit (gfOf poly s) := by
    refine IsUnit.of_mul_eq_one (gfOf poly (gfInv poly s)) ?_
    rw [← gfOf_mul h.1, gfMul_gfInv h hs]
    exact gfOf_one poly
  refine ⟨scaleMatrix poly c s, Matrix.isUnit_diagonal.mpr (Pi.isUnit_iff.mpr fun i => ?_), fun m => ?_⟩
  · split
    · exact hunit
    · exact isUnit_one
  · ext i j
    rw [matOf_apply, scaleRow_get, scaleMatrix, Matrix.diagonal_mul]
    split
    · rw [scaleVec_get, gfOf_mul h.1, matOf_apply]
    · rw [one_mul, matOf_apply]

theorem isRowOp_clearColumn {poly : BitVec 9} (h8 : poly.getLsbD 8 = true) (c : Fin 16) (f : Vec16) :
    IsRowOp poly fun m => clearColumn poly m c f := by
  have hsq : clearPart poly c f * clearPart poly c f = 0 := by simp [clearPart, Matrix.vecMulVec_mul_vecMulVec]
  have htwice : clearPart poly c f + clearPart poly c f = 0 := by ext i j; exact gf_add_self poly _
  have hself : (1 + clearPart poly c f) * (1 + clearPart poly c f) = 1 := by
    calc (1 + clearPart poly c f) * (1 + clearPart poly c f)
        = 1 + (clearPart poly c f + clearPart poly c f) + clearPart poly c f * clearPart poly c f := by noncomm_ring
      _ = 1 := by rw [htwice, hsq, add_zero, add_zero]
  refine ⟨1 + clearPart poly c f, ⟨⟨_, _, hself, hself⟩, rfl⟩, fun m => ?_⟩
  ext r j
  have hrow : ((1 + clearPart poly c f) * matOf poly m) r j =
      matOf poly m r j + (if r = c then 0 else gfOf poly f[r]) * matOf poly m c j := by
    simp [clearPart, add_mul, Matrix.vecMulVec_mul, Matrix.vecMulVec_apply]
  rw [hrow, matOf_apply, clearColumn_get]
  by_cases hr : r = c
  · simp [hr]
  · by_cases hf : f[r] = 0
    · rw [if_pos (Or.inr hf), if_neg hr, hf]
      simp
    · rw [if_neg (not_or.mpr ⟨hr, hf⟩), if_neg hr, xorVec_get, gfOf_xor, scaleVec_get, gfOf_mul h8]
      rfl

end Sys2Proof
end

section
/-! ### `invert_matrix` is correct (40_table_builder.md R112, R113)

The left matrix of the elimination is always the right one times the input, the right one stays invertible, and the columns done are
those of the identity. Where no pivot is left the left matrix, and with it the input, is singular. -/

namespace Sys2Proof

open Matrix

/-- The first `n` columns are those of the identity. -/
def UnitColumns (m : Matrix16) (n : Nat) : Prop :=
  ∀ i j : Fin 16, j.val < n → (m[i])[j] = if i = j then 1 else 0

theorem UnitColumns.eq_identity16 {m : Matrix16} (h : UnitColumns m 16) : m = identity16 :=
  Matrix16.ext fun i j => by
    rw [h i j j.isLt]
    simp [Fin.ext_iff, eq_comm]

/-! #### The pivot -/

theorem pivotRow_eq_some {a : Matrix16} {c r : Fin 16} (h : pivotRow a c = some r) : c.val ≤ r.val ∧ (a[r])[c] ≠ 0 := by
  simpa [pivotRow] using List.find?_some h

theorem pivotRow_eq_none {a : Matrix16} {c : Fin 16} (h : pivotRow a c = none) (r : Fin 16) (hr : c.val ≤ r.val) :
    (a[r])[c] = 0 := by
  have := List.find?_eq_none.mp h r (List.mem_finRange r)
  simpa [hr] using this

/-- The combination of the columns up to `c` that vanishes where column `c` has no pivot. -/
noncomputable def dependency (poly : BitVec 9) (a : Matrix16) (c : Fin 16) : Fin 16 → GF poly :=
  fun j => if j = c then 1 else if j.val < c.val then gfOf poly (a[j])[c] else 0

/-- A lane of that combination: column `c` once, and once more from the unit columns before it. -/
theorem matOf_mulVec_dependency {poly : BitVec 9} {a : Matrix16} {c : Fin 16} (hu : UnitColumns a c.val) (i : Fin 16) :
    (matOf poly a *ᵥ dependency poly a c) i =
      gfOf poly (a[i])[c] + if i.val < c.val then gfOf poly (a[i])[c] else 0 := by
  have hterm : ∀ j, matOf poly a i j * dependency poly a c j =
      (if j = c then gfOf poly (a[i])[c] else 0) +
        if j = i then (if i.val < c.val then gfOf poly (a[i])[c] else 0) else 0 := by
    intro j
    rw [dependency, matOf_apply]
    by_cases hjc : j = c
    · subst hjc
      by_cases hji : j = i
      · subst hji; simp
      · simp [hji]
    · by_cases hlt : j.val < c.val
      · rw [hu i j hlt]
        by_cases hij : i = j
        · subst hij
          rw [if_pos rfl, if_neg hjc, if_pos hlt, if_neg hjc, if_pos rfl, zero_add]
          exact (congrArg (· * _) (gfOf_one poly)).trans (one_mul _)
        · rw [if_neg hij, if_neg hjc, if_neg hjc, if_neg (Ne.symm hij), zero_add]
          exact (congrArg (· * _) (gfOf_zero poly)).trans (zero_mul _)
      · rw [if_neg hjc, if_neg hlt, if_neg hjc, mul_zero, zero_add]
        by_cases hji : j = i
        · subst hji; simp [hlt]
        · rw [if_neg hji]
  simp only [Matrix.mulVec, dotProduct, hterm, Finset.sum_add_distrib, Finset.sum_ite_eq', Finset.mem_univ, if_true]

/-- Without a pivot the column is a combination of the unit columns before it. -/
theorem not_isUnit_of_pivotRow_eq_none {poly : BitVec 9} {a : Matrix16} {c : Fin 16} (h : PolyOk poly)
    (hu : UnitColumns a c.val) (hp : pivotRow a c = none) : ¬ IsUnit (matOf poly a) := by
  have : Fact (Irreducible (bitPoly poly.toNat)) := ⟨h.irreducible⟩
  intro hunit
  have hzero : matOf poly a *ᵥ dependency poly a c = matOf poly a *ᵥ 0 := by
    ext i
    rw [matOf_mulVec_dependency hu, Matrix.mulVec_zero, Pi.zero_apply]
    by_cases hi : i.val < c.val
    · rw [if_pos hi, gf_add_self]
    · rw [if_neg hi, pivotRow_eq_none hp i (not_lt.mp hi), add_zero]
      exact gfOf_zero poly
  have hc := congrFun (Matrix.mulVec_injective_iff_isUnit.mpr hunit hzero) c
  simp [dependency] at hc

/-! #### One column -/

/-- The swap and the scaling of one column of the elimination. -/
def normalizeRow (poly : BitVec 9) (c r : Fin 16) (s : Byte) (m : Matrix16) : Matrix16 := scaleRow poly (swapRows m c r) c s

theorem normalizeRow_get {poly : BitVec 9} {c r : Fin 16} {s : Byte} {m : Matrix16} (i j : Fin 16) :
    ((normalizeRow poly c r s m)[i])[j] =
      if i = c then gfMul poly s (m[r])[j] else if i = r then (m[c])[j] else (m[i])[j] := by
  rw [normalizeRow, scaleRow_get, swapRows_get]
  by_cases hc : i = c
  · rw [if_pos hc, if_pos hc, if_pos hc, scaleVec_get]
  · rw [if_neg hc, if_neg hc, if_neg hc]
    split <;> rfl

/-- Scaling the pivot to 1 leaves the columns done as they are. -/
theorem UnitColumns.normalizeRow {poly : BitVec 9} {c r : Fin 16} {s : Byte} {m : Matrix16} (h : UnitColumns m c.val)
    (hr : c.val ≤ r.val) : UnitColumns (normalizeRow poly c r s m) c.val := by
  intro i j hj
  have hrow : ∀ k : Fin 16, c.val ≤ k.val → (m[k])[j] = 0 := fun k hk => by
    rw [h k j hj, if_neg fun e => by subst e; omega]
  rw [normalizeRow_get]
  by_cases hc : i = c
  · rw [if_pos hc, hrow r hr, if_neg (by subst hc; rintro rfl; omega)]
    exact gfMul_zero_right poly s
  · rw [if_neg hc]
    by_cases hir : i = r
    · rw [if_pos hir, hrow c le_rfl, if_neg (by subst hir; rintro rfl; omega)]
    · rw [if_neg hir, h i j hj]

/-- Clearing the pivot's column makes it a column of the identity. -/
theorem UnitColumns.clearColumn {poly : BitVec 9} {c : Fin 16} {m : Matrix16} (h8 : poly.getLsbD 8 = true)
    (h : UnitColumns m c.val) (hc : (m[c])[c] = 1) : UnitColumns (clearColumn poly m c (columnOf m c)) (c.val + 1) := by
  intro r j hj
  have hf : (columnOf m c)[r] = (m[r])[c] := by simp [columnOf]
  rw [clearColumn_get, hf]
  obtain hj | rfl : j.val < c.val ∨ j = c := by
    obtain hj | hj := Nat.lt_succ_iff_lt_or_eq.mp hj
    · exact .inl hj
    · exact .inr (Fin.ext hj)
  · have hcj : (m[c])[j] = 0 := by rw [h c j hj, if_neg fun e => by subst e; omega]
    split
    · exact h r j hj
    · rw [xorVec_get, scaleVec_get, hcj, h r j hj]
      simp
  · by_cases hr : r = j
    · rw [if_pos (Or.inl hr), if_pos hr, hr, hc]
    · by_cases h0 : (m[r])[j] = 0
      · rw [if_pos (Or.inr h0), if_neg hr, h0]
      · rw [if_neg (not_or.mpr ⟨hr, h0⟩), if_neg hr, xorVec_get, scaleVec_get, hc, gfMul_one h8, BitVec.xor_self]
        rfl

/-- The invariant of the elimination of `m`. -/
def Elimination.Reduces (poly : BitVec 9) (m : Matrix16) (e : Elimination) : Prop :=
  IsUnit (matOf poly e.b) ∧ matOf poly e.a = matOf poly e.b * matOf poly m

theorem Elimination.Reduces.rowOp {poly : BitVec 9} {m : Matrix16} {e : Elimination} {op : Matrix16 → Matrix16}
    (h : e.Reduces poly m) (hop : IsRowOp poly op) : Elimination.Reduces poly m ⟨op e.a, op e.b⟩ := by
  obtain ⟨hb, ha⟩ := h
  obtain ⟨E, hE, hop⟩ := hop
  exact ⟨by rw [hop]; exact hE.mul hb, by rw [hop, hop, ha, Matrix.mul_assoc]⟩

/-- What one column of the elimination does to both matrices. -/
def reduceColumn (poly : BitVec 9) (c r : Fin 16) (s : Byte) (f : Vec16) (m : Matrix16) : Matrix16 :=
  clearColumn poly (normalizeRow poly c r s m) c f

theorem isRowOp_reduceColumn {poly : BitVec 9} (h : PolyOk poly) (c r : Fin 16) {s : Byte} (hs : s ≠ 0) (f : Vec16) :
    IsRowOp poly (reduceColumn poly c r s f) :=
  (isRowOp_clearColumn h.1 c f).comp ((isRowOp_scaleRow h c hs).comp (isRowOp_swapRows poly c r))

theorem eliminateColumn_of_pivot {poly : BitVec 9} {e : Elimination} {c r : Fin 16} (hp : pivotRow e.a c = some r) :
    eliminateColumn poly e c =
      some
        ⟨reduceColumn poly c r (gfInv poly (e.a[r])[c])
            (columnOf (normalizeRow poly c r (gfInv poly (e.a[r])[c]) e.a) c) e.a,
          reduceColumn poly c r (gfInv poly (e.a[r])[c])
            (columnOf (normalizeRow poly c r (gfInv poly (e.a[r])[c]) e.a) c) e.b⟩ := by
  have hrow : (swapRows e.a c r)[c] = e.a[r] := by rw [swapRows_get, if_pos rfl]
  simp only [eliminateColumn, hp, hrow]
  rfl

theorem eliminateColumn_eq_none {poly : BitVec 9} {e : Elimination} {c : Fin 16} (h : eliminateColumn poly e c = none) :
    pivotRow e.a c = none := by
  cases hp : pivotRow e.a c with
  | none => rfl
  | some r =>
    rw [eliminateColumn_of_pivot hp] at h
    cases h

/-- One column of the elimination. -/
theorem eliminateColumn_spec {poly : BitVec 9} {m : Matrix16} {e e' : Elimination} {c : Fin 16} (h : PolyOk poly)
    (hred : e.Reduces poly m) (hu : UnitColumns e.a c.val) (he : eliminateColumn poly e c = some e') :
    e'.Reduces poly m ∧ UnitColumns e'.a (c.val + 1) := by
  cases hp : pivotRow e.a c with
  | none => simp [eliminateColumn, hp] at he
  | some r =>
    obtain ⟨hr, hpiv⟩ := pivotRow_eq_some hp
    rw [eliminateColumn_of_pivot hp, Option.some.injEq] at he
    subst he
    have hs : gfInv poly (e.a[r])[c] ≠ 0 := fun h0 => by
      have hinv := gfMul_gfInv h hpiv
      rw [h0] at hinv
      exact absurd ((gfMul_zero_right poly _).symm.trans hinv) (by decide)
    have hone : ((normalizeRow poly c r (gfInv poly (e.a[r])[c]) e.a)[c])[c] = 1 := by
      rw [normalizeRow_get, if_pos rfl, gfMul_comm h.1, gfMul_gfInv h hpiv]
    exact ⟨hred.rowOp (isRowOp_reduceColumn h c r hs _), (hu.normalizeRow hr).clearColumn h.1 hone⟩

/-- The whole elimination, from column `n` on. -/
theorem eliminate_spec {poly : BitVec 9} {m : Matrix16} (h : PolyOk poly) (k : Nat) {n : Nat} (hn : n + k = 16)
    {e : Elimination} (hred : e.Reduces poly m) (hu : UnitColumns e.a n) :
    (∀ e', eliminate poly ((List.finRange 16).drop n) e = some e' → e'.Reduces poly m ∧ UnitColumns e'.a 16) ∧
    (eliminate poly ((List.finRange 16).drop n) e = none → ¬ IsUnit (matOf poly m)) := by
  induction k generalizing n e with
  | zero =>
    obtain rfl : n = 16 := by omega
    have hnil : (List.finRange 16).drop 16 = [] := List.drop_eq_nil_of_le (by simp)
    rw [hnil, eliminate]
    refine ⟨fun e' he => ?_, nofun⟩
    cases he
    exact ⟨hred, hu⟩
  | succ k ih =>
    have hdrop : (List.finRange 16).drop n = ⟨n, by omega⟩ :: (List.finRange 16).drop (n + 1) := by
      rw [List.drop_eq_getElem_cons (by simp; omega)]
      simp
    rw [hdrop, eliminate]
    cases hc : eliminateColumn poly e ⟨n, by omega⟩ with
    | none =>
      refine ⟨nofun, fun _ hm => ?_⟩
      refine not_isUnit_of_pivotRow_eq_none h hu (eliminateColumn_eq_none hc) ?_
      rw [hred.2]
      exact hred.1.mul hm
    | some e1 =>
      obtain ⟨hred1, hu1⟩ := eliminateColumn_spec h hred hu hc
      exact ih (by omega) hred1 hu1

/-- What `invert_matrix` answers. -/
theorem invertMatrix_spec {poly : BitVec 9} (h : PolyOk poly) (m : Matrix16) :
    (∀ b, invertMatrix poly m = some b → MatInverse poly m b) ∧ (invertMatrix poly m = none → ¬ Invertible poly m) := by
  have hred : Elimination.Reduces poly m ⟨m, identity16⟩ := by simp [Elimination.Reduces]
  obtain ⟨hsome, hnone⟩ := eliminate_spec h 16 (n := 0) rfl hred (fun i j hj => absurd hj (Nat.not_lt_zero _))
  rw [List.drop_zero] at hsome hnone
  constructor
  · intro b hb
    obtain ⟨e, he, rfl⟩ := Option.map_eq_some_iff.mp hb
    obtain ⟨⟨-, hab⟩, hu⟩ := hsome e he
    rw [matInverse_iff h.1, ← hab, hu.eq_identity16, matOf_identity16]
  · intro hn
    rw [invertible_iff h.1]
    exact hnone (Option.map_eq_none_iff.mp hn)

/-- An invertible matrix has its inverse computed. -/
theorem exists_invertMatrix {poly : BitVec 9} (h : PolyOk poly) {m : Matrix16} (hm : Invertible poly m) :
    ∃ b, invertMatrix poly m = some b ∧ MatInverse poly m b := by
  cases hb : invertMatrix poly m with
  | none => exact absurd hm ((invertMatrix_spec h m).2 hb)
  | some b => exact ⟨b, rfl, (invertMatrix_spec h m).1 b hb⟩

/-- A singular matrix is `NotInvertible`. -/
theorem invertMatrix_of_singular {poly : BitVec 9} (h : PolyOk poly) {m : Matrix16} (hm : ¬ Invertible poly m) :
    invertMatrix poly m = none := by
  cases hb : invertMatrix poly m with
  | none => rfl
  | some b => exact absurd ⟨b, (invertMatrix_spec h m).1 b hb⟩ hm

end Sys2Proof
end

section
/-! ### `invert_permutation`, the table set and INIT_DEFAULT (40_table_builder.md R114 to R118) -/

namespace Sys2Proof

/-! #### Permutations -/

theorem hits_eq_card (t : ByteTable) (y : Byte) : hits t y = (Finset.univ.filter fun x : Fin 256 => t[x] = y).card := by
  rw [hits, List.countP_eq_length_filter, ← List.toFinset_card_of_nodup ((List.nodup_finRange 256).filter _)]
  congr 1
  ext x
  simp

/-- A value is hit once exactly when one place holds it. -/
theorem hits_eq_one {t : ByteTable} {y : Byte} :
    hits t y = 1 ↔ ∃ x : Byte, lookup t x = y ∧ ∀ x' : Byte, lookup t x' = y → x' = x := by
  rw [hits_eq_card, Finset.card_eq_one]
  constructor
  · rintro ⟨a, ha⟩
    have hmem : ∀ x : Fin 256, t[x] = y ↔ x = a := fun x => by
      have := congrArg (x ∈ ·) ha
      simpa using this
    refine ⟨BitVec.ofFin a, (hmem a).mpr rfl, fun x' hx' => ?_⟩
    rw [← (hmem x'.toFin).mp hx']
  · rintro ⟨x, hx, huniq⟩
    refine ⟨x.toFin, Finset.ext fun a => ?_⟩
    simp only [Finset.mem_filter, Finset.mem_univ, true_and, Finset.mem_singleton]
    refine ⟨fun ha => ?_, fun ha => ha ▸ hx⟩
    rw [← huniq (BitVec.ofFin a) ha]

/-- The check of R114 is that the table is a permutation. -/
theorem isPermutation_iff {t : ByteTable} : isPermutation t = true ↔ Permutation t := by
  simp only [isPermutation, List.all_eq_true, List.mem_range, beq_iff_eq, hits_eq_one, Permutation]
  exact ⟨fun h y => by simpa using h y.toNat y.isLt, fun h y _ => h _⟩

/-- A value the table has stands at the place found for it. -/
theorem lookup_placeOf {t : ByteTable} {x y : Byte} (h : lookup t x = y) : lookup t (placeOf t y) = y := by
  unfold placeOf
  cases hf : (List.finRange 256).find? fun x => decide (t[x] = y) with
  | some z =>
    have hz := List.find?_some hf
    exact of_decide_eq_true hz
  | none =>
    have := List.find?_eq_none.mp hf x.toFin (List.mem_finRange _)
    exact absurd (decide_eq_true h) this

/-- The inverse of a permutation is computed, and undoes it on both sides. -/
theorem exists_invertPermutation {t : ByteTable} (h : Permutation t) :
    ∃ inv, invertPermutation t = some inv ∧ (∀ y : Byte, lookup t (lookup inv y) = y) ∧
      ∀ x : Byte, lookup inv (lookup t x) = x := by
  refine ⟨_, if_pos (isPermutation_iff.mpr h), ?_⟩
  have hright : ∀ y : Byte, lookup t (lookup (Vector.ofFn fun y => placeOf t (BitVec.ofFin y)) y) = y := fun y => by
    obtain ⟨x, hx, -⟩ := h y
    rw [lookup_ofFn]
    exact lookup_placeOf hx
  refine ⟨hright, fun x => ?_⟩
  obtain ⟨z, -, huniq⟩ := h (lookup t x)
  exact (huniq _ (hright _)).trans (huniq x rfl).symm

/-- A table that is no permutation is `NotAPermutation`. -/
theorem invertPermutation_of_not_permutation {t : ByteTable} (h : ¬ Permutation t) : invertPermutation t = none :=
  if_neg (mt isPermutation_iff.mp h)

/-! #### The table set -/

theorem matApply_get (poly : BitVec 9) (m : Matrix16) (v : Vec16) (i : Fin 16) :
    (matApply poly m v)[i] = xorSum fun j => gfMul poly (m[i])[j] v[j] := by
  simp [matApply]

/-- A matrix applied to a multiple of `e_j` is that multiple of its column `j`. -/
theorem matApply_scaleVec_unitVec {poly : BitVec 9} (h8 : poly.getLsbD 8 = true) (m : Matrix16) (c : Byte) (j : Fin 16) :
    matApply poly m (scaleVec poly c (unitVec j)) = scaleVec poly c (columnOf m j) := by
  refine Vec16.ext fun i => ?_
  have hunit : ∀ k : Fin 16, (unitVec j)[k] = if k = j then 1 else 0 := fun k => by simp [unitVec]
  rw [matApply_get, xorSum_single j]
  · rw [scaleVec_get, hunit, if_pos rfl, gfMul_one h8, gfMul_comm h8, scaleVec_get]
    simp [columnOf]
  · intro k hk
    rw [scaleVec_get, hunit, if_neg hk]
    exact (congrArg _ (gfMul_zero_right poly c)).trans (gfMul_zero_right poly _)

theorem lookup_roundTable (poly : BitVec 9) (m : Matrix16) (t : ByteTable) (j : Fin 16) (x : Byte) :
    lookup (roundTable poly m t)[j] x = scaleVec poly (lookup t x) (columnOf m j) := by
  simp [roundTable, lookup]

namespace Machine

/-- The table set of a matrix and a permutation with their inverses meets R41. -/
theorem tableSet_consistent {poly : BitVec 9} {m minv : Matrix16} {t tinv : ByteTable} (h8 : poly.getLsbD 8 = true)
    (hm : MatInverse poly m minv) (hleft : ∀ x : Byte, lookup tinv (lookup t x) = x)
    (hright : ∀ y : Byte, lookup t (lookup tinv y) = y) : (tableSet poly m minv t tinv).Consistent poly := by
  refine ⟨hleft, hright, hm, fun j x => ?_, fun j x => ?_⟩
  · rw [matApply_scaleVec_unitVec h8]
    exact lookup_roundTable poly m t j x
  · rw [matApply_scaleVec_unitVec h8]
    exact lookup_roundTable poly minv tinv j x

/-! #### Installing tables -/

section
variable {s : State} {m : Matrix16} {t : ByteTable}

/-- An invertible matrix and a permutation are installed with their inverses. -/
theorem State.installTables_ok (hp : PolyOk s.par.profile.poly) (hm : Invertible s.par.profile.poly m)
    (ht : Permutation t) :
    ∃ minv tinv, s.installTables m t = { s with tbl := tableSet s.par.profile.poly m minv t tinv }.succeed none 0 0 ∧
      (tableSet s.par.profile.poly m minv t tinv).Consistent s.par.profile.poly := by
  obtain ⟨minv, hminv, hinv⟩ := exists_invertMatrix hp hm
  obtain ⟨tinv, htinv, hright, hleft⟩ := exists_invertPermutation ht
  exact ⟨minv, tinv, by simp only [State.installTables, hminv, htinv], tableSet_consistent hp.1 hinv hleft hright⟩

theorem State.installTables_singular (hp : PolyOk s.par.profile.poly) (hm : ¬ Invertible s.par.profile.poly m) :
    s.installTables m t = s.raise none .notInvertible 0 0 := by
  simp only [State.installTables, invertMatrix_of_singular hp hm]

theorem State.installTables_not_permutation (hp : PolyOk s.par.profile.poly) (hm : Invertible s.par.profile.poly m)
    (ht : ¬ Permutation t) : s.installTables m t = s.raise none .notAPermutation 0 0 := by
  obtain ⟨minv, hminv, -⟩ := exists_invertMatrix hp hm
  simp only [State.installTables, hminv, invertPermutation_of_not_permutation ht]

end

/-! #### INIT_DEFAULT -/

theorem execInitDefault_absent {s : State} {variant : Variant} (hf : s.fault = false)
    (hv : variantTables s.par.profile variant = none) :
    execInitDefault variant s = .next (s.raise none .invalidParameter 0 0) := by
  rw [execInitDefault, command_passes hf rfl, hv]

theorem execInitDefault_present {s : State} {variant : Variant} {l : LinSource} {p : ByteTable} (hf : s.fault = false)
    (hv : variantTables s.par.profile variant = some (l, p)) :
    execInitDefault variant s = .next (s.installTables (matrixOf s.par.profile.poly l) p) := by
  rw [execInitDefault, command_passes hf rfl, hv]

/-- Settles O25: the three ends of installing a variant's tables, and the absent variant. -/
theorem initDefaultResult : Obligations.InitDefaultResult := by
  refine ⟨fun s variant l p hf hp hv hm ht => ?_, fun s variant hf hv => execInitDefault_absent hf hv,
    fun s variant l p hf hp hv => ⟨fun hm => ?_, fun hm ht => ?_⟩, fun s hf hw => ?_⟩
  · obtain ⟨minv, tinv, hi, hcons⟩ := State.installTables_ok hp hm ht
    exact ⟨_, (execInitDefault_present hf hv).trans (congrArg _ hi), rfl, rfl, rfl, rfl, hcons⟩
  · exact (execInitDefault_present hf hv).trans (congrArg _ (State.installTables_singular hp hm))
  · exact (execInitDefault_present hf hv).trans (congrArg _ (State.installTables_not_permutation hp hm ht))
  · obtain ⟨minv, tinv, hi, -⟩ := State.installTables_ok hw.poly hw.linStd hw.permStd
    exact ⟨_, (execInitDefault_present (variant := .standard) hf rfl).trans (congrArg _ hi), rfl, rfl⟩

end Machine
end Sys2Proof
end

section
/-! ### The feedback register's matrix (40_table_builder.md R108, R109), and the state after reset -/

namespace Sys2Proof

open Matrix

/-! #### `generate_matrix` is the 16th power of one step -/

/-- The matrix of `LFSR_STEP`. -/
noncomputable def lfsrMatrix (poly : BitVec 9) (t : Vec16) : Matrix (Fin 16) (Fin 16) (GF poly) := fun i j =>
  if i.val = 0 then gfOf poly t[j] else if i.val = j.val + 1 then 1 else 0

theorem lfsrMatrix_mulVec_zero (poly : BitVec 9) (t : Vec16) (u : Fin 16 → GF poly) :
    (lfsrMatrix poly t *ᵥ u) 0 = ∑ j, gfOf poly t[j] * u j := by
  simp [lfsrMatrix, Matrix.mulVec, dotProduct]

theorem lfsrMatrix_mulVec_succ (poly : BitVec 9) (t : Vec16) (u : Fin 16 → GF poly) (i : Fin 15) :
    (lfsrMatrix poly t *ᵥ u) i.succ = u i.castSucc := by
  have hterm : ∀ j : Fin 16, lfsrMatrix poly t i.succ j * u j = if j = i.castSucc then u j else 0 := by
    intro j
    have hij : i.val = j.val ↔ j = i.castSucc := by rw [Fin.ext_iff, Fin.val_castSucc, eq_comm]
    simp [lfsrMatrix, hij]
  rw [Matrix.mulVec, dotProduct, Finset.sum_congr rfl fun j _ => hterm j, Finset.sum_ite_eq', if_pos (Finset.mem_univ _)]

@[simp] theorem vecOf_unitVec (poly : BitVec 9) (j : Fin 16) : vecOf poly (unitVec j) = Pi.single j 1 := by
  ext i
  have hij : i.val = j.val ↔ i = j := Fin.ext_iff.symm
  by_cases h : i = j <;> simp [hij, h]

section
variable {poly : BitVec 9} (h8 : poly.getLsbD 8 = true)
include h8

theorem vecOf_lfsrStep (v t : Vec16) : vecOf poly (lfsrStep poly v t) = lfsrMatrix poly t *ᵥ vecOf poly v := by
  ext i
  induction i using Fin.cases with
  | zero =>
    rw [lfsrMatrix_mulVec_zero]
    simp [lfsrStep, gfOf_mul h8]
  | succ i =>
    rw [lfsrMatrix_mulVec_succ]
    simp [lfsrStep]

theorem vecOf_lfsrSteps (t : Vec16) (n : Nat) (v : Vec16) :
    vecOf poly (lfsrSteps poly t n v) = (lfsrMatrix poly t ^ n) *ᵥ vecOf poly v := by
  induction n generalizing v with
  | zero => rw [pow_zero, Matrix.one_mulVec]; rfl
  | succ n ih => rw [lfsrSteps, ih, vecOf_lfsrStep h8, Matrix.mulVec_mulVec, pow_succ]

theorem matOf_generateMatrix (t : Vec16) : matOf poly (generateMatrix poly t) = lfsrMatrix poly t ^ 16 := by
  ext i j
  have hcol := congrFun (vecOf_lfsrSteps h8 t 16 (unitVec j)) i
  rw [vecOf_unitVec, Matrix.mulVec_single_one] at hcol
  have hentry : matOf poly (generateMatrix poly t) i j = vecOf poly (lfsrSteps poly t 16 (unitVec j)) i := by
    simp [generateMatrix]
  rw [hentry, hcol, Matrix.col_apply]

end

/-- One step is invertible when the last tap is not zero: the lanes shifted up are read off, and the last one from the feedback. -/
theorem isUnit_lfsrMatrix {poly : BitVec 9} (h : PolyOk poly) {t : Vec16} (ht : t[15] ≠ 0) :
    IsUnit (lfsrMatrix poly t) := by
  have : Fact (Irreducible (bitPoly poly.toNat)) := ⟨h.irreducible⟩
  refine Matrix.mulVec_injective_iff_isUnit.mp fun u u' huu => ?_
  have hlow : ∀ i : Fin 15, u i.castSucc = u' i.castSucc := fun i => by
    rw [← lfsrMatrix_mulVec_succ poly t u, ← lfsrMatrix_mulVec_succ poly t u']
    exact congrFun huu i.succ
  have hsplit : ∀ w : Fin 16 → GF poly, (lfsrMatrix poly t *ᵥ w) 0 =
      ∑ i : Fin 15, gfOf poly t[i.castSucc] * w i.castSucc + gfOf poly t[15] * w (Fin.last 15) := fun w => by
    rw [lfsrMatrix_mulVec_zero, Fin.sum_univ_castSucc]
    rfl
  have htop : (lfsrMatrix poly t *ᵥ u) 0 = (lfsrMatrix poly t *ᵥ u') 0 := congrFun huu 0
  simp only [hsplit, hlow] at htop
  have hne : gfOf poly t[15] ≠ 0 := fun h0 => ht (gfOf_injective h.1 (h0.trans (gfOf_zero poly).symm))
  funext i
  induction i using Fin.lastCases with
  | last => exact mul_left_cancel₀ hne (add_left_cancel htop)
  | cast i => exact hlow i

/-- The matrix of a register whose last tap is not zero is invertible. -/
theorem invertible_generateMatrix {poly : BitVec 9} (h : PolyOk poly) {t : Vec16} (ht : t[15] ≠ 0) :
    Invertible poly (generateMatrix poly t) := by
  rw [invertible_iff h.1, matOf_generateMatrix h.1]
  exact (isUnit_lfsrMatrix h ht).pow 16

/-! #### A table with all 256 values is a permutation -/

/-- The set of values of a table, one bit each. -/
def valueMask (l : List Byte) : Nat := l.foldr (fun x acc => (1 <<< x.toNat) ||| acc) 0

theorem testBit_valueMask {l : List Byte} {y : Byte} : (valueMask l).testBit y.toNat = true ↔ y ∈ l := by
  induction l with
  | nil => simp [valueMask]
  | cons x l ih =>
    have hx : (1 <<< x.toNat).testBit y.toNat = decide (y = x) := by
      rw [Nat.one_shiftLeft, Nat.testBit_two_pow]
      simp [BitVec.toNat_inj, eq_comm]
    rw [valueMask, List.foldr_cons, Nat.testBit_or, hx, Bool.or_eq_true, decide_eq_true_eq, List.mem_cons]
    exact or_congr_right ih

/-- A table that has all 256 values has each of them once. -/
theorem permutation_of_valueMask {t : ByteTable} (h : valueMask t.toList = 2 ^ 256 - 1) : Permutation t := by
  have hsurj : Function.Surjective (lookup t) := fun y => by
    have hy : y ∈ t.toList := by
      rw [← testBit_valueMask, h, Nat.testBit_two_pow_sub_one]
      exact decide_eq_true y.isLt
    obtain ⟨i, hi, hiy⟩ := Vector.mem_iff_getElem.mp (Vector.mem_toList_iff.mp hy)
    exact ⟨BitVec.ofFin ⟨i, hi⟩, hiy⟩
  have hinj : Function.Injective (lookup t) := Finite.injective_iff_surjective.mpr hsurj
  exact fun y => (hsurj y).imp fun x hx => ⟨hx, fun x' hx' => hinj (hx'.trans hx.symm)⟩

namespace Machine

/-! #### The tabulated profiles are well formed (00_scope.md R8) -/

theorem polyOk_aes : PolyOk 0x11B := by decide +kernel

theorem polyOk_gost : PolyOk 0x1C3 := by decide +kernel

theorem permutation_sboxAes : Permutation sboxAes := permutation_of_valueMask (by decide +kernel)

theorem permutation_sboxGost : Permutation sboxGost := permutation_of_valueMask (by decide +kernel)

/-- `M_AES` and the inverse that 44_profile_aes.md R220 prints. -/
theorem matInverse_matrixAes : MatInverse 0x11B matrixAes matrixAesInv := by
  have hone : matMul 0x11B matrixAesInv matrixAes = identity16 := by decide +kernel
  rw [matInverse_iff polyOk_aes.1, ← matOf_matMul polyOk_aes.1, hone, matOf_identity16]

theorem lastLinOk_aes : LastLinOk profileAes := by
  have h : ∀ i j : Fin 16, piShiftRows[i] = piShiftRows[j] → i = j := by decide
  exact h

theorem wfProfile_aes : WfProfile profileAes where
  poly := polyOk_aes
  linStd := ⟨matrixAesInv, matInverse_matrixAes⟩
  linCompat := nofun
  permStd := permutation_sboxAes
  permCompat := nofun
  lastLin := lastLinOk_aes
  someLength := by decide
  lengthsApart := by decide
  sizes := by decide
  lenDefault := by decide
  expand := by decide

theorem wfProfile_gost : WfProfile profileGost where
  poly := polyOk_gost
  linStd := invertible_generateMatrix polyOk_gost (by decide)
  linCompat := nofun
  permStd := permutation_sboxGost
  permCompat := nofun
  lastLin := trivial
  someLength := by decide
  lengthsApart := by decide
  sizes := by decide
  lenDefault := by decide
  expand := by decide

theorem wfParams_atReset : WfParams Params.atReset := ⟨wfProfile_aes, nofun⟩

/-! #### The state after reset -/

theorem State.reset_slot (k : SlotId) : State.reset.slot k = Slot.zero := by simp [State.slot, State.reset]

theorem Slot.zero_ok (par : Params) : Slot.zero.Ok par := by
  rw [Slot.Ok, if_neg (by decide)]

theorem State.reset_slotsOk : State.reset.SlotsOk :=
  ⟨wfParams_atReset.keySizesOk, rfl, fun k => by rw [State.reset_slot]; exact Slot.zero_ok _⟩

/-- Settles O8: the reset values, field by field, and the invariants from the well-formed profile. -/
theorem resetState : Obligations.ResetState :=
  ⟨⟨fun i => by simp [State.reset], rfl, rfl, rfl, rfl, rfl, rfl, rfl, State.reset_slot, rfl⟩,
    ⟨⟨State.reset_mem_wf, nofun⟩, State.reset_slotsOk, ⟨polyOk_aes, nofun⟩⟩,
    rfl, wfParams_atReset, wfProfile_gost⟩

end Machine
end Sys2Proof
end

section
/-! ### The block operations (42_cipher_core.md R150 to R170) -/

namespace Sys2Proof

/-! #### Blocks as vectors -/

@[simp] theorem Vec16.ofList_toList (v : Vec16) : Vec16.ofList v.toList = v :=
  Vec16.ext fun i => by simp [Vec16.ofList]

theorem Vec16.toList_ofList {b : List Byte} (h : b.length = 16) : (Vec16.ofList b).toList = b := by
  refine List.ext_getElem (by simp [h]) fun i h1 h2 => ?_
  simp [Vec16.ofList, h2]

@[simp] theorem vec8OfList_toList (v : Vector Byte 8) : vec8OfList v.toList = v :=
  Vector.ext fun i hi => by simp [vec8OfList]

theorem toList_vec8OfList {b : List Byte} (h : b.length = 8) : (vec8OfList b).toList = b := by
  refine List.ext_getElem (by simp [h]) fun i h1 h2 => ?_
  simp [vec8OfList, h2]

/-- The first bytes of a vector made of a block are the block. -/
theorem Vec16.take_ofList {b : List Byte} (h : b.length ≤ 16) : (Vec16.ofList b).toList.take b.length = b := by
  refine List.ext_getElem (by simpa using h) fun i h1 h2 => ?_
  simp [Vec16.ofList, h2]

theorem xorVec_xorVec_cancel (v w : Vec16) : xorVec (xorVec v w) w = v :=
  Vec16.ext fun i => by rw [xorVec_get, xorVec_get, BitVec.xor_assoc, BitVec.xor_self, BitVec.xor_zero]

namespace Machine

/-! #### The stages and their inverses -/

section
variable {prf : Profile} {tbl : TableSet}

theorem addRoundKey_get (v k : Vec16) (i : Fin 16) : (addRoundKey v k)[i] = v[i] ^^^ k[i] := xorVec_get v k i

@[simp] theorem addRoundKey_addRoundKey (v k : Vec16) : addRoundKey (addRoundKey v k) k = v := xorVec_xorVec_cancel v k

theorem subBytes_get (tbl : TableSet) (v : Vec16) (i : Fin 16) : (subBytes tbl v)[i] = tbl.sub v[i] := by
  simp [subBytes]

theorem invSubBytes_get (tbl : TableSet) (v : Vec16) (i : Fin 16) :
    (invSubBytes tbl v)[i] = tbl.subInv v[i] := by
  simp [invSubBytes]

theorem bytePerm_get (pi : Vector (Fin 16) 16) (v : Vec16) (i : Fin 16) : (bytePerm pi v)[i] = v[pi[i]] := by
  simp [bytePerm]

/-- `w[pi[i]] = v[i]` where `pi` is a permutation (R166). -/
theorem bytePermInv_get {pi : Vector (Fin 16) 16} (h : ∀ i j : Fin 16, pi[i] = pi[j] → i = j) (v : Vec16) (i : Fin 16) :
    (bytePermInv pi v)[pi[i]] = v[i] := by
  have hfind : (List.finRange 16).find? (fun j => decide (pi[j] = pi[i])) = some i := by
    cases hf : (List.finRange 16).find? fun j => decide (pi[j] = pi[i]) with
    | some j =>
      have hj := List.find?_some hf
      rw [h j i (of_decide_eq_true hj)]
    | none => exact absurd (decide_eq_true rfl) (List.find?_eq_none.mp hf i (List.mem_finRange i))
  simp only [Fin.getElem_fin] at hfind
  simp only [bytePermInv, Fin.getElem_fin, Vector.getElem_ofFn, Fin.eta, hfind]

theorem bytePermInv_bytePerm {pi : Vector (Fin 16) 16} (h : ∀ i j : Fin 16, pi[i] = pi[j] → i = j) (v : Vec16) :
    bytePermInv pi (bytePerm pi v) = v := by
  have hsurj : Function.Surjective fun i : Fin 16 => pi[i] := Finite.injective_iff_surjective.mp h
  refine Vec16.ext fun j => ?_
  obtain ⟨i, rfl⟩ := hsurj j
  exact (bytePermInv_get h _ i).trans (bytePerm_get pi v i)

theorem bytePerm_bytePermInv {pi : Vector (Fin 16) 16} (h : ∀ i j : Fin 16, pi[i] = pi[j] → i = j) (v : Vec16) :
    bytePerm pi (bytePermInv pi v) = v :=
  Vec16.ext fun i => (bytePerm_get pi _ i).trans (bytePermInv_get h v i)

theorem linearLast_same (h : prf.lastLin = .same) (tbl : TableSet) (v : Vec16) :
    linearLast prf tbl v = linear prf tbl v := by
  simp only [linearLast, h]

theorem linearLast_bytePerm {pi : Vector (Fin 16) 16} (h : prf.lastLin = .bytePerm pi) (tbl : TableSet) (v : Vec16) :
    linearLast prf tbl v = bytePerm pi v := by
  simp only [linearLast, h]

theorem invLinearLast_same (h : prf.lastLin = .same) (tbl : TableSet) (v : Vec16) :
    invLinearLast prf tbl v = invLinear prf tbl v := by
  simp only [invLinearLast, h]

theorem invLinearLast_bytePerm {pi : Vector (Fin 16) 16} (h : prf.lastLin = .bytePerm pi) (tbl : TableSet) (v : Vec16) :
    invLinearLast prf tbl v = bytePermInv pi v := by
  simp only [invLinearLast, h]

theorem LastLinOk.injective {pi : Vector (Fin 16) 16} (h : LastLinOk prf) (hpi : prf.lastLin = .bytePerm pi) :
    ∀ i j : Fin 16, pi[i] = pi[j] → i = j := by
  simpa only [LastLinOk, hpi] using h

theorem invSubBytes_subBytes (h : tbl.Consistent prf.poly) (v : Vec16) : invSubBytes tbl (subBytes tbl v) = v :=
  Vec16.ext fun i => by rw [invSubBytes_get, subBytes_get]; exact h.1 _

theorem subBytes_invSubBytes (h : tbl.Consistent prf.poly) (v : Vec16) : subBytes tbl (invSubBytes tbl v) = v :=
  Vec16.ext fun i => by rw [subBytes_get, invSubBytes_get]; exact h.2.1 _

theorem TableSet.Consistent.matInverse (h : tbl.Consistent prf.poly) : MatInverse prf.poly tbl.mat tbl.matInv := h.2.2.1

section
variable (h8 : prf.poly.getLsbD 8 = true) (h : tbl.Consistent prf.poly)
include h8 h

theorem invLinear_linear (v : Vec16) : invLinear prf tbl (linear prf tbl v) = v :=
  h.matInverse.apply_apply h8 v

theorem linear_invLinear (v : Vec16) : linear prf tbl (invLinear prf tbl v) = v :=
  h.matInverse.symm.apply_apply h8 v

variable (hlast : LastLinOk prf)
include hlast

theorem invLinearLast_linearLast (v : Vec16) : invLinearLast prf tbl (linearLast prf tbl v) = v := by
  cases hl : prf.lastLin with
  | same => rw [invLinearLast_same hl, linearLast_same hl, invLinear_linear h8 h]
  | bytePerm pi => rw [invLinearLast_bytePerm hl, linearLast_bytePerm hl, bytePermInv_bytePerm (hlast.injective hl)]

theorem linearLast_invLinearLast (v : Vec16) : linearLast prf tbl (invLinearLast prf tbl v) = v := by
  cases hl : prf.lastLin with
  | same => rw [linearLast_same hl, invLinearLast_same hl, linear_invLinear h8 h]
  | bytePerm pi => rw [linearLast_bytePerm hl, invLinearLast_bytePerm hl, bytePerm_bytePermInv (hlast.injective hl)]

end
end

/-! #### Rounds and their inverses -/

section
variable {f : Vec16 → Vec16} {g : Vec16 → Vec16 → Vec16}

theorem backwardRounds_forwardRounds (rk : RoundKeys) (hgf : ∀ k x, g k (addRoundKey (f x) k) = x) (n : Nat) (v : Vec16) :
    backwardRounds g rk n (forwardRounds f rk n 1 v) = v := by
  induction n with
  | zero => rfl
  | succ n ih => rw [forwardRounds_succ, backwardRounds, Nat.add_comm 1 n, hgf, ih]

theorem forwardRounds_backwardRounds (rk : RoundKeys) (hfg : ∀ k x, addRoundKey (f (g k x)) k = x) (n : Nat) (v : Vec16) :
    forwardRounds f rk n 1 (backwardRounds g rk n v) = v := by
  induction n generalizing v with
  | zero => rfl
  | succ n ih => rw [forwardRounds_succ, backwardRounds, ih, Nat.add_comm 1 n, hfg]

/-- Rounds that a map carries to other rounds, it carries to them in any number. -/
theorem map_backwardRounds {φ : Vec16 → Vec16} {g' : Vec16 → Vec16 → Vec16} (rk : RoundKeys)
    (h : ∀ k x, φ (g k x) = g' k (φ x)) (n : Nat) (v : Vec16) :
    φ (backwardRounds g rk n v) = backwardRounds g' rk n (φ v) := by
  induction n generalizing v with
  | zero => rfl
  | succ n ih => rw [backwardRounds, ih, h, backwardRounds]

/-- The vectors that the rounds from `n` downto 1 leave. -/
theorem exists_backwardRounds (g : Vec16 → Vec16 → Vec16) (rk : RoundKeys) (n : Nat) (w : Vec16) :
    ∃ v : Nat → Vec16, v (n + 1) = w ∧ (∀ i, 0 < i → i ≤ n → v i = g (roundKey rk i) (v (i + 1))) ∧
      backwardRounds g rk n w = v 1 := by
  induction n generalizing w with
  | zero => exact ⟨fun _ => w, rfl, fun i h0 h1 => by omega, rfl⟩
  | succ n ih =>
    obtain ⟨v, hv, hstep, hend⟩ := ih (g (roundKey rk (n + 1)) w)
    have hlow : ∀ i, i ≤ n + 1 → Function.update v (n + 2) w i = v i := fun i hi =>
      Function.update_of_ne (by omega) _ _
    refine ⟨Function.update v (n + 2) w, Function.update_self .., fun i h0 hi => ?_, ?_⟩
    · rw [hlow i hi]
      obtain hi | rfl := Nat.lt_or_eq_of_le hi
      · rw [hlow (i + 1) (by omega), hstep i h0 (by omega)]
      · rw [hv, Function.update_self]
    · rw [backwardRounds, hend, hlow 1 (by omega)]

end

/-! #### The four operations on a vector -/

/-- A full round without its key (R150). -/
def plainForward (prf : Profile) (tbl : TableSet) (x : Vec16) : Vec16 := linear prf tbl (subBytes tbl x)

/-- A full round backwards (R156). -/
def plainBackward (prf : Profile) (tbl : TableSet) (k x : Vec16) : Vec16 :=
  invSubBytes tbl (invLinear prf tbl (addRoundKey x k))

/-- A full table round backwards (R158). -/
def tabledBackward (prf : Profile) (tbl : TableSet) (k x : Vec16) : Vec16 :=
  addRoundKey (invRoundT tbl x) (invLinear prf tbl k)

section
variable (prf : Profile) (tbl : TableSet) (rk : RoundKeys) (nr : Nat) (b : Vec16)

theorem encryptPlain_eq :
    encryptPlain prf tbl rk nr b =
      addRoundKey
        (linearLast prf tbl
          (subBytes tbl (forwardRounds (plainForward prf tbl) rk (nr - 1) 1 (addRoundKey b (roundKey rk 0)))))
        (roundKey rk nr) := rfl

theorem decryptPlain_eq :
    decryptPlain prf tbl rk nr b =
      addRoundKey
        (backwardRounds (plainBackward prf tbl) rk (nr - 1)
          (invSubBytes tbl (invLinearLast prf tbl (addRoundKey b (roundKey rk nr)))))
        (roundKey rk 0) := rfl

theorem encryptTabled_same (h : prf.lastLin = .same) :
    encryptTabled prf tbl rk nr b =
      addRoundKey (roundT tbl (forwardRounds (roundT tbl) rk (nr - 1) 1 (addRoundKey b (roundKey rk 0))))
        (roundKey rk nr) := by
  simp only [encryptTabled, h]

theorem encryptTabled_bytePerm {pi : Vector (Fin 16) 16} (h : prf.lastLin = .bytePerm pi) :
    encryptTabled prf tbl rk nr b =
      addRoundKey
        (bytePerm pi (subBytes tbl (forwardRounds (roundT tbl) rk (nr - 1) 1 (addRoundKey b (roundKey rk 0)))))
        (roundKey rk nr) := by
  simp only [encryptTabled, h, linearLast_bytePerm h]

theorem decryptTabled_eq :
    decryptTabled prf tbl rk nr b =
      addRoundKey
        (invSubBytes tbl
          (backwardRounds (tabledBackward prf tbl) rk (nr - 1)
            (invLinearLast prf tbl (addRoundKey b (roundKey rk nr)))))
        (roundKey rk 0) := rfl

end

/-! #### The table rounds (R159, R167, R168) -/

theorem tableRound_eq {poly : BitVec 9} (h8 : poly.getLsbD 8 = true) {t : RoundTable} {m : Matrix16} {f : Byte → Byte}
    (ht : ∀ (j : Fin 16) (x : Byte), lookup t[j] x = matApply poly m (scaleVec poly (f x) (unitVec j))) {v w : Vec16}
    (hw : ∀ j : Fin 16, w[j] = f v[j]) : tableRound t v = matApply poly m w := by
  refine Vec16.ext fun i => ?_
  have hlane : (tableRound t v)[i] = xorSum fun j => (lookup t[j] v[j])[i] := by simp [tableRound]
  rw [hlane, matApply_get]
  refine congrArg xorSum (funext fun j => ?_)
  rw [ht, matApply_scaleVec_unitVec h8, scaleVec_get, hw, gfMul_comm h8]
  simp [columnOf]

section
variable {prf : Profile} {tbl : TableSet} (h8 : prf.poly.getLsbD 8 = true) (h : tbl.Consistent prf.poly)
include h8 h

theorem roundT_eq (v : Vec16) : roundT tbl v = linear prf tbl (subBytes tbl v) :=
  tableRound_eq h8 h.2.2.2.1 (subBytes_get tbl v)

theorem invRoundT_eq (v : Vec16) : invRoundT tbl v = invLinear prf tbl (invSubBytes tbl v) :=
  tableRound_eq h8 h.2.2.2.2 (invSubBytes_get tbl v)

theorem encryptTabled_eq_encryptPlain (rk : RoundKeys) (nr : Nat) (b : Vec16) :
    encryptTabled prf tbl rk nr b = encryptPlain prf tbl rk nr b := by
  have hround : roundT tbl = plainForward prf tbl := funext (roundT_eq h8 h)
  cases hl : prf.lastLin with
  | same => rw [encryptTabled_same _ _ _ _ _ hl, encryptPlain_eq, linearLast_same hl, hround]; rfl
  | bytePerm pi => rw [encryptTabled_bytePerm _ _ _ _ _ hl, encryptPlain_eq, linearLast_bytePerm hl, hround]

/-- The substitution carries the table round backwards to the plain one, for `INV_LINEAR` adds over the round key. -/
theorem invSubBytes_tabledBackward (k x : Vec16) :
    invSubBytes tbl (tabledBackward prf tbl k x) = plainBackward prf tbl k (invSubBytes tbl x) := by
  rw [tabledBackward, plainBackward, invRoundT_eq h8 h]
  exact congrArg _ (matApply_xorVec h8 tbl.matInv _ k).symm

theorem decryptTabled_eq_decryptPlain (rk : RoundKeys) (nr : Nat) (c : Vec16) :
    decryptTabled prf tbl rk nr c = decryptPlain prf tbl rk nr c := by
  rw [decryptTabled_eq, decryptPlain_eq, map_backwardRounds rk (invSubBytes_tabledBackward h8 h)]

variable (hlast : LastLinOk prf)
include hlast

/-- R156: decryption undoes encryption, round by round. -/
theorem decryptPlain_encryptPlain (rk : RoundKeys) (nr : Nat) (b : Vec16) :
    decryptPlain prf tbl rk nr (encryptPlain prf tbl rk nr b) = b := by
  have hround : ∀ k x, plainBackward prf tbl k (addRoundKey (plainForward prf tbl x) k) = x := fun k x => by
    rw [plainBackward, addRoundKey_addRoundKey, plainForward, invLinear_linear h8 h, invSubBytes_subBytes h]
  rw [decryptPlain_eq, encryptPlain_eq, addRoundKey_addRoundKey, invLinearLast_linearLast h8 h hlast,
    invSubBytes_subBytes h, backwardRounds_forwardRounds rk hround, addRoundKey_addRoundKey]

theorem encryptPlain_decryptPlain (rk : RoundKeys) (nr : Nat) (c : Vec16) :
    encryptPlain prf tbl rk nr (decryptPlain prf tbl rk nr c) = c := by
  have hround : ∀ k x, addRoundKey (plainForward prf tbl (plainBackward prf tbl k x)) k = x := fun k x => by
    rw [plainForward, plainBackward, subBytes_invSubBytes h, linear_invLinear h8 h, addRoundKey_addRoundKey]
  rw [encryptPlain_eq, decryptPlain_eq, addRoundKey_addRoundKey, forwardRounds_backwardRounds rk hround,
    subBytes_invSubBytes h, linearLast_invLinearLast h8 h hlast, addRoundKey_addRoundKey]

end

/-! #### A slot's block operation -/

section
variable {par : Params} {tbl : TableSet} {sl : Slot}

theorem encryptBlock_b8 (h : sl.kind = .b8) (b : List Byte) :
    encryptBlock par tbl sl b = (Config.alg8Block sl.rk (vec8OfList b)).toList := by
  simp only [encryptBlock, h]

theorem decryptBlock_b8 (h : sl.kind = .b8) (b : List Byte) :
    decryptBlock par tbl sl b = ((Config.alg8Block sl.rk).symm (vec8OfList b)).toList := by
  simp only [decryptBlock, h]

theorem encryptBlock_b16t (h : sl.kind = .b16t) (b : List Byte) :
    encryptBlock par tbl sl b =
      (encryptTabled par.profile tbl sl.rk (sl.nrk.toNat - 1) (Vec16.ofList b)).toList := by
  simp only [encryptBlock, h]

theorem decryptBlock_b16t (h : sl.kind = .b16t) (b : List Byte) :
    decryptBlock par tbl sl b =
      (decryptTabled par.profile tbl sl.rk (sl.nrk.toNat - 1) (Vec16.ofList b)).toList := by
  simp only [decryptBlock, h]

theorem encryptBlock_b16p (h : sl.kind = .b16p) (b : List Byte) :
    encryptBlock par tbl sl b =
      (encryptPlain par.profile tbl sl.rk (sl.nrk.toNat - 1) (Vec16.ofList b)).toList := by
  simp only [encryptBlock, h]

theorem decryptBlock_b16p (h : sl.kind = .b16p) (b : List Byte) :
    decryptBlock par tbl sl b =
      (decryptPlain par.profile tbl sl.rk (sl.nrk.toNat - 1) (Vec16.ofList b)).toList := by
  simp only [decryptBlock, h]

/-- On consistent tables a slot of kind `B16T` encrypts and decrypts with the plain operation. -/
theorem encryptBlock_b16t_plain (h8 : par.profile.poly.getLsbD 8 = true) (ht : tbl.Consistent par.profile.poly)
    (h : sl.kind = .b16t) (b : List Byte) :
    encryptBlock par tbl sl b =
      (encryptPlain par.profile tbl sl.rk (sl.nrk.toNat - 1) (Vec16.ofList b)).toList := by
  rw [encryptBlock_b16t h, encryptTabled_eq_encryptPlain h8 ht]

theorem decryptBlock_b16t_plain (h8 : par.profile.poly.getLsbD 8 = true) (ht : tbl.Consistent par.profile.poly)
    (h : sl.kind = .b16t) (b : List Byte) :
    decryptBlock par tbl sl b =
      (decryptPlain par.profile tbl sl.rk (sl.nrk.toNat - 1) (Vec16.ofList b)).toList := by
  rw [decryptBlock_b16t h, decryptTabled_eq_decryptPlain h8 ht]

/-- Operations on vectors that invert each other do so on blocks of 16 bytes. -/
theorem toList_inverse_16 {e d : Vec16 → Vec16} (hde : ∀ v, d (e v) = v) {b : List Byte} (hb : b.length = 16) :
    (d (Vec16.ofList (e (Vec16.ofList b)).toList)).toList = b := by
  rw [Vec16.ofList_toList, hde, Vec16.toList_ofList hb]

end

/-- Settles O47: stage by stage for the plain operation, which the tabled one equals, and by the law of `alg8`. -/
theorem blockInverse : Obligations.BlockInverse := by
  intro par tbl sl b hcond hshape hb
  obtain ⟨hk, hsize⟩ | ⟨hk, hsize⟩ := hshape
  · have h8 : b.length = 8 := by rw [hb, Slot.bs, hsize]; rfl
    simp only [encryptBlock_b8 hk, decryptBlock_b8 hk, vec8OfList_toList, Equiv.symm_apply_apply, Equiv.apply_symm_apply,
      toList_vec8OfList h8, and_self]
  · have h16 : b.length = 16 := by rw [hb, Slot.bs, hsize]; rfl
    obtain hk' | ⟨h8, hlast, ht⟩ := hcond
    · simp [hk'] at hk
    · have hde := toList_inverse_16 (decryptPlain_encryptPlain h8 ht hlast sl.rk (sl.nrk.toNat - 1)) h16
      have hed := toList_inverse_16 (encryptPlain_decryptPlain h8 ht hlast sl.rk (sl.nrk.toNat - 1)) h16
      obtain hk | hk := hk
      · simp only [encryptBlock_b16t_plain h8 ht hk, decryptBlock_b16t_plain h8 ht hk]
        exact ⟨hde, hed⟩
      · simp only [encryptBlock_b16p hk, decryptBlock_b16p hk]
        exact ⟨hde, hed⟩

end Machine
end Sys2Proof
end

section
/-! ### ENCRYPT_BLOCK and DECRYPT_BLOCK as entries of the operation table (42_cipher_core.md R150 to R158, R169) -/

namespace Sys2Proof.Machine

/-! #### The lanes of the four operations -/

section
variable (prf : Profile) (tbl : TableSet)

/-- A lane of a layer `m` times a vector whose lanes are known. -/
theorem matApply_lane {poly : BitVec 9} {m : Matrix16} {w : Vec16} {f : Fin 16 → Byte} (hw : ∀ j : Fin 16, w[j] = f j)
    (i : Fin 16) : (matApply poly m w)[i] = xorSum fun j => gfMul poly (m[i])[j] (f j) := by
  simp only [matApply_get, hw]

theorem plainForward_lane (v : Vec16) (m : Fin 16) :
    (plainForward prf tbl v)[m] = xorSum fun j => gfMul prf.poly (tbl.mat[m])[j] (tbl.sub v[j]) :=
  matApply_lane (subBytes_get tbl v) m

theorem roundT_lane (v : Vec16) (m : Fin 16) : (roundT tbl v)[m] = xorSum fun j => (lookup tbl.fwd[j] v[j])[m] := by
  simp [roundT, tableRound]

theorem invRoundT_lane (v : Vec16) (m : Fin 16) : (invRoundT tbl v)[m] = xorSum fun j => (lookup tbl.bwd[j] v[j])[m] := by
  simp [invRoundT, tableRound]

theorem plainBackward_lane (k x : Vec16) (m : Fin 16) :
    (plainBackward prf tbl k x)[m] =
      tbl.subInv (xorSum fun j => gfMul prf.poly (tbl.matInv[m])[j] (x[j] ^^^ k[j])) := by
  rw [plainBackward, invSubBytes_get]
  exact congrArg _ (matApply_lane (addRoundKey_get x k) m)

theorem tabledBackward_lane (k x : Vec16) (m : Fin 16) :
    (tabledBackward prf tbl k x)[m] =
      (xorSum fun j => (lookup tbl.bwd[j] x[j])[m]) ^^^ xorSum fun j => gfMul prf.poly (tbl.matInv[m])[j] k[j] := by
  rw [tabledBackward, addRoundKey_get, invRoundT_lane]
  exact congrArg _ (matApply_get _ _ _ m)

theorem lastLane_same {prf : Profile} (h : prf.lastLin = .same) (v : Vec16) (m : Fin 16) (full : Byte) :
    lastLane prf tbl v m full = full := by
  simp only [lastLane, h]

theorem lastLane_bytePerm {prf : Profile} {pi : Vector (Fin 16) 16} (h : prf.lastLin = .bytePerm pi) (v : Vec16)
    (m : Fin 16) (full : Byte) : lastLane prf tbl v m full = tbl.sub v[pi[m]] := by
  simp only [lastLane, h]

/-- The last layer after the substitution, lane by lane (R154). -/
theorem linearLast_lane (v : Vec16) (m : Fin 16) :
    (linearLast prf tbl (subBytes tbl v))[m] =
      lastLane prf tbl v m (xorSum fun j => gfMul prf.poly (tbl.mat[m])[j] (tbl.sub v[j])) := by
  cases hl : prf.lastLin with
  | same =>
    rw [linearLast_same hl, lastLane_same tbl hl]
    exact plainForward_lane prf tbl v m
  | bytePerm pi => rw [linearLast_bytePerm hl, lastLane_bytePerm tbl hl, bytePerm_get, subBytes_get]

end

/-! #### The rounds as a sequence of vectors -/

theorem roundKey_zero (rk : RoundKeys) : roundKey rk 0 = rk[0] := rfl

/-- Round `i` of a run of rounds from round 1. -/
theorem forwardRounds_round (f : Vec16 → Vec16) (rk : RoundKeys) (w : Vec16) (i : Fin 15) (hi : 0 < i.val) :
    forwardRounds f rk i.val 1 w = addRoundKey (f (forwardRounds f rk (i.val - 1) 1 w)) rk[i] := by
  obtain ⟨n, hn⟩ : ∃ n, i.val = n + 1 := ⟨i.val - 1, by omega⟩
  rw [← roundKey_eq, hn, forwardRounds_succ, Nat.add_comm 1 n]
  rfl

section
variable (prf : Profile) (tbl : TableSet) (rk : RoundKeys) {nr : Fin 15} (b : Vec16)

theorem encryptPlain_lanes : PlainEncryption prf tbl rk nr b (encryptPlain prf tbl rk nr.val b) := by
  refine ⟨fun n => forwardRounds (plainForward prf tbl) rk n 1 (addRoundKey b (roundKey rk 0)), fun m => ?_,
    fun i hi _ m => ?_, fun m => ?_⟩
  · exact addRoundKey_get b rk[0] m
  · beta_reduce
    rw [forwardRounds_round _ _ _ i hi, addRoundKey_get, plainForward_lane]
  · rw [encryptPlain_eq, addRoundKey_get, linearLast_lane, roundKey_eq]

theorem encryptTabled_lanes : TabledEncryption prf tbl rk nr b (encryptTabled prf tbl rk nr.val b) := by
  refine ⟨fun n => forwardRounds (roundT tbl) rk n 1 (addRoundKey b (roundKey rk 0)), fun m => ?_, fun i hi _ m => ?_,
    fun m => ?_⟩
  · exact addRoundKey_get b rk[0] m
  · beta_reduce
    rw [forwardRounds_round _ _ _ i hi, addRoundKey_get, roundT_lane]
  · cases hl : prf.lastLin with
    | same => rw [encryptTabled_same _ _ _ _ _ hl, addRoundKey_get, lastLane_same tbl hl, roundT_lane, roundKey_eq]
    | bytePerm pi =>
      rw [encryptTabled_bytePerm _ _ _ _ _ hl, addRoundKey_get, lastLane_bytePerm tbl hl, bytePerm_get, subBytes_get,
        roundKey_eq]

variable (hnr : 0 < nr.val) (hlast : LastLinOk prf)
include hnr hlast

theorem decryptPlain_lanes : PlainDecryption prf tbl rk nr b (decryptPlain prf tbl rk nr.val b) := by
  obtain ⟨v, hv, hstep, hend⟩ := exists_backwardRounds (plainBackward prf tbl) rk (nr.val - 1)
    (invSubBytes tbl (invLinearLast prf tbl (addRoundKey b (roundKey rk nr.val))))
  rw [Nat.sub_add_cancel hnr] at hv
  refine ⟨v, ?_, fun i hi hlt m => ?_, fun m => ?_⟩
  · cases hl : prf.lastLin with
    | same =>
      intro m
      rw [hv, invSubBytes_get, invLinearLast_same hl, ← roundKey_eq]
      exact congrArg _ (matApply_lane (addRoundKey_get b _) m)
    | bytePerm pi =>
      intro m
      rw [hv, invSubBytes_get, invLinearLast_bytePerm hl, bytePermInv_get (hlast.injective hl), addRoundKey_get,
        roundKey_eq]
  · rw [hstep i.val hi (by omega), plainBackward_lane, roundKey_eq]
  · rw [decryptPlain_eq, addRoundKey_get, hend, roundKey_zero]

theorem decryptTabled_lanes : TabledDecryption prf tbl rk nr b (decryptTabled prf tbl rk nr.val b) := by
  obtain ⟨v, hv, hstep, hend⟩ := exists_backwardRounds (tabledBackward prf tbl) rk (nr.val - 1)
    (invLinearLast prf tbl (addRoundKey b (roundKey rk nr.val)))
  rw [Nat.sub_add_cancel hnr] at hv
  refine ⟨v, ?_, fun i hi hlt m => ?_, fun m => ?_⟩
  · cases hl : prf.lastLin with
    | same =>
      intro m
      rw [hv, invLinearLast_same hl, ← roundKey_eq]
      exact matApply_lane (addRoundKey_get b _) m
    | bytePerm pi =>
      intro m
      rw [hv, invLinearLast_bytePerm hl, bytePermInv_get (hlast.injective hl), addRoundKey_get, roundKey_eq]
  · rw [hstep i.val hi (by omega), tabledBackward_lane, roundKey_eq]
  · rw [decryptTabled_eq, addRoundKey_get, invSubBytes_get, hend, roundKey_zero]

end

/-! #### The entry issued alone -/

theorem blockOp_length {dir : Direction} {par : Params} {tbl : TableSet} {sl : Slot} (h : sl.Shape) (b : List Byte) :
    (blockOp dir par tbl sl b).length = sl.bs := by
  obtain ⟨hk, hb⟩ | ⟨hk | hk, hb⟩ := h <;> cases dir <;> simp [blockOp, encryptBlock, decryptBlock, hk, hb, Slot.bs]

section
variable {s : State} {dir : Direction}

/-- Latch `v` takes the block's image, and nothing else changes. -/
theorem blockEntry_next (hsh : (s.slot s.seq.slot).Shape) (hkey : (s.slot s.seq.slot).keySet = true)
    (ht : s.tbl.valid = true ∨ (s.slot s.seq.slot).kind = .b8) :
    ∃ w : Vec16, blockEntry dir s = .next (s.setV w) ∧
      w.toList.take (s.slot s.seq.slot).bs = blockOp dir s.par s.tbl (s.slot s.seq.slot) s.latchBlock := by
  have hlen := blockOp_length (dir := dir) (par := s.par) (tbl := s.tbl) hsh s.latchBlock
  have hbs : (s.slot s.seq.slot).bs ≤ 16 := by
    obtain ⟨-, hb⟩ | ⟨-, hb⟩ := hsh <;> simp [Slot.bs, hb]
  have hbound : (s.slot s.seq.slot).kind ≠ .unbound := by
    obtain ⟨hk, -⟩ | ⟨hk | hk, -⟩ := hsh <;> simp [hk]
  refine ⟨_, ?_, by rw [← hlen]; exact Vec16.take_ofList (hlen.trans_le hbs)⟩
  simp only [blockEntry, hbound, hkey, if_false, Bool.true_eq_false]
  split
  · rfl
  · next hk => rw [State.setTableV_of_valid (ht.resolve_right hk)]

theorem blockEntry_unbound (h : (s.slot s.seq.slot).kind = .unbound) : blockEntry dir s = .fault .noOperationBound := by
  simp only [blockEntry, h, if_true]

theorem blockEntry_unkeyed (hk : (s.slot s.seq.slot).kind ≠ .unbound) (h : (s.slot s.seq.slot).keySet = false) :
    blockEntry dir s = .fault .noKeyInstalled := by
  simp only [blockEntry, hk, h, if_false, if_true]

end

/-- Settles O49: the entry's ends, and the lanes of each kind's operation. -/
theorem blockEntries : Obligations.BlockEntries := by
  intro s
  refine ⟨fun hsh hkey ht => ?_, fun k nr b hnr hnrk => ⟨fun hk => ?_, fun hk => ?_⟩, fun k b hk => ?_,
    fun h => ⟨blockEntry_unbound h, blockEntry_unbound h⟩,
    fun hk h => ⟨blockEntry_unkeyed hk h, blockEntry_unkeyed hk h⟩⟩
  · obtain ⟨w, hw, himage⟩ := blockEntry_next (dir := .encrypt) hsh hkey ht
    obtain ⟨w', hw', himage'⟩ := blockEntry_next (dir := .decrypt) hsh hkey ht
    exact ⟨w, w', hw, hw', himage, himage'⟩
  · have hn : (s.slot k).nrk.toNat - 1 = nr.val := by omega
    exact ⟨⟨_, by rw [State.encrypts, encryptBlock_b16p hk, hn, Vec16.ofList_toList], encryptPlain_lanes _ _ _ b⟩,
      fun hlast => ⟨_, by rw [State.decrypts, decryptBlock_b16p hk, hn, Vec16.ofList_toList],
        decryptPlain_lanes _ _ _ b hnr hlast⟩⟩
  · have hn : (s.slot k).nrk.toNat - 1 = nr.val := by omega
    exact ⟨⟨_, by rw [State.encrypts, encryptBlock_b16t hk, hn, Vec16.ofList_toList], encryptTabled_lanes _ _ _ b⟩,
      fun hlast => ⟨_, by rw [State.decrypts, decryptBlock_b16t hk, hn, Vec16.ofList_toList],
        decryptTabled_lanes _ _ _ b hnr hlast⟩⟩
  · exact ⟨by rw [State.encrypts, encryptBlock_b8 hk, vec8OfList_toList],
      by rw [State.decrypts, decryptBlock_b8 hk, vec8OfList_toList]⟩

end Sys2Proof.Machine
end

section
/-! ### The block work of a command

Between its checks and its end a command on slot `k` makes four kinds of update only: a block call spends one unit of the
counter, a mode writes its chain into the IV buffer, a block of output is stored, a derivation installs the next key. What
all four keep, every mode command and `DERIVE_NEXT` keep. -/

namespace Sys2Proof.Machine

/-- `P` is kept by each update of the work on slot `k` whose output is the `n` bytes at `dst`. A derived key has the length
of the key it replaces where the slot has its algorithm's block size (41_key_object.md R137). -/
structure KeptByWork (k : SlotId) (dst n : Nat) (P : State → Prop) : Prop where
  spend : ∀ t, P t → (t.slot k).resourceCounter ≠ 0 →
    P (t.setSlot k { t.slot k with resourceCounter := (t.slot k).resourceCounter - 1 })
  chain : ∀ t b, P t → P (t.setSlot k ((t.slot k).setChain b))
  store : ∀ t v a m, P t → (0 < m → dst ≤ a ∧ a + m ≤ dst + n) → P (t.store a m v)
  install : ∀ t kb, P t → ((t.slot k).Shape → kb.length = (t.slot k).keyLen.toNat) →
    P (t.setSlot k (Slot.installKey t.par t.tbl (t.slot k) kb))

/-! #### The length of a derived key -/

/-- The encryptions of a derivation change nothing of the slot but its counter, and each gives a whole block. -/
theorem derivationLoop_ok {k : SlotId} {bs n i : Nat} {buf buf' : List Byte} {j j' : Job}
    (h : derivationLoop k bs n i buf j = .ok (j', buf')) :
    (∃ c, j'.st.slot k = { j.st.slot k with resourceCounter := c }) ∧
    ((j.st.slot k).Shape → buf'.length = buf.length + n * (j.st.slot k).bs) := by
  induction n generalizing i buf j with
  | zero =>
    cases h
    exact ⟨⟨_, rfl⟩, fun _ => by simp⟩
  | succ n ih =>
    cases hb : blockCall .encrypt k (acpkmBlock j.st.par.profile bs i) j with
    | error j1 => simp [derivationLoop, hb] at h
    | ok r =>
      obtain ⟨j1, c⟩ := r
      obtain ⟨-, -, hst, rfl⟩ := blockCall_ok hb
      simp only [derivationLoop, hb] at h
      obtain ⟨⟨c, hslot⟩, hlen⟩ := ih h
      rw [hst, State.slot_setSlot_same] at hslot hlen
      refine ⟨⟨c, hslot⟩, fun hsh => ?_⟩
      rw [hlen hsh, List.length_append, blockOp_length hsh, Nat.succ_mul]
      simp only [Slot.bs]
      omega

/-- `J` blocks hold a key: `key_len <= J * bs`. -/
theorem Slot.keyLen_le_derivationBlocks {sl : Slot} (h : sl.Shape) : sl.keyLen.toNat ≤ sl.derivationBlocks * sl.bs := by
  obtain ⟨-, hb⟩ | ⟨-, hb⟩ := h <;> simp [Slot.derivationBlocks, ceilDiv, Slot.bs, hb] <;> omega

section
variable {P : State → Prop} {k : SlotId} {dst n : Nat} {j : Job}

/-! #### Block calls and derivations -/

theorem KeptByWork.blockCall (hP : KeptByWork k dst n P) {dir : Direction} {b c : List Byte} {j' : Job} (hj : P j.st)
    (h : blockCall dir k b j = .ok (j', c)) : P j'.st := by
  obtain ⟨hc, -, hst, -⟩ := blockCall_ok h
  exact hst ▸ hP.spend _ hj hc

theorem KeptByWork.derivationLoop (hP : KeptByWork k dst n P) {bs : Nat} :
    ∀ (m i : Nat) (buf : List Byte) (j : Job), P j.st → endsIn P ((derivationLoop k bs m i buf j).map Prod.fst) := by
  intro m
  induction m with
  | zero => exact fun i buf j hj => hj
  | succ m ih =>
    intro i buf j hj
    cases hb : Machine.blockCall .encrypt k (acpkmBlock j.st.par.profile bs i) j with
    | error j1 =>
      simp only [Machine.derivationLoop, hb]
      exact (blockCall_error hb).1 ▸ hj
    | ok r =>
      simp only [Machine.derivationLoop, hb]
      exact ih _ _ _ (hP.blockCall hj hb)

theorem KeptByWork.deriveNext (hP : KeptByWork k dst n P) (hj : P j.st) : endsIn P (deriveNext k j) := by
  have hl := hP.derivationLoop (bs := (j.st.slot k).bs) (j.st.slot k).derivationBlocks 0 [] j hj
  simp only [Machine.deriveNext]
  split
  · exact hj
  · cases hd : Machine.derivationLoop k (j.st.slot k).bs (j.st.slot k).derivationBlocks 0 [] j with
    | error j1 => rw [hd] at hl; exact hl
    | ok r =>
      rw [hd] at hl
      obtain ⟨⟨c, hslot⟩, hlen⟩ := derivationLoop_ok hd
      refine hP.install _ _ hl fun hsh => ?_
      rw [hslot] at hsh ⊢
      have := Slot.keyLen_le_derivationBlocks (sl := j.st.slot k) hsh
      rw [List.length_take, hlen hsh, List.length_nil, Nat.zero_add]
      exact min_eq_left this

/-! #### The bodies of the modes -/

theorem KeptByWork.ecbBody (hP : KeptByWork k dst n P) {dir : Direction} {src a bs i : Nat} (hj : P j.st)
    (hr : 0 < bs → dst ≤ a + i * bs ∧ a + i * bs + bs ≤ dst + n) : endsIn P (ecbBody dir k src a bs i j) := by
  unfold Machine.ecbBody
  cases hb : Machine.blockCall dir k (j.st.load (src + i * bs) bs) j with
  | error j1 => exact (blockCall_error hb).1 ▸ hj
  | ok r => exact hP.store _ _ _ _ (hP.blockCall hj hb) hr

theorem KeptByWork.cbcEncBody (hP : KeptByWork k dst n P) {src a bs i : Nat} (hj : P j.st)
    (hr : 0 < bs → dst ≤ a + i * bs ∧ a + i * bs + bs ≤ dst + n) : endsIn P (cbcEncBody k src a bs i j) := by
  simp only [Machine.cbcEncBody]
  cases hb : Machine.blockCall .encrypt k (xorBytes (j.st.load (src + i * bs) bs) ((j.st.slot k).chain bs)) j with
  | error j1 => exact (blockCall_error hb).1 ▸ hj
  | ok r => exact hP.store _ _ _ _ (hP.chain _ _ (hP.blockCall hj hb)) hr

theorem KeptByWork.cbcDecBody (hP : KeptByWork k dst n P) {src a bs i : Nat} (hj : P j.st)
    (hr : 0 < bs → dst ≤ a + i * bs ∧ a + i * bs + bs ≤ dst + n) : endsIn P (cbcDecBody k src a bs i j) := by
  simp only [Machine.cbcDecBody]
  cases hb : Machine.blockCall .decrypt k (j.st.load (src + i * bs) bs) j with
  | error j1 => exact (blockCall_error hb).1 ▸ hj
  | ok r => exact hP.store _ _ _ _ (hP.chain _ _ (hP.blockCall hj hb)) hr

theorem KeptByWork.ctrBody (hP : KeptByWork k dst n P) {src a len bs i : Nat} (hj : P j.st)
    (hr : 0 < min bs (len - i * bs) → dst ≤ a + i * bs ∧ a + i * bs + min bs (len - i * bs) ≤ dst + n) :
    endsIn P (ctrBody k src a len bs i j) := by
  simp only [Machine.ctrBody]
  cases hb : Machine.blockCall .encrypt k ((j.st.slot k).chain bs) j with
  | error j1 => exact (blockCall_error hb).1 ▸ hj
  | ok r => exact hP.store _ _ _ _ (hP.chain _ _ (hP.blockCall hj hb)) hr

theorem KeptByWork.acpkmBody (hP : KeptByWork k dst n P) {section_ src a len bs i : Nat} (hj : P j.st)
    (hr : 0 < min bs (len - i * bs) → dst ≤ a + i * bs ∧ a + i * bs + min bs (len - i * bs) ≤ dst + n) :
    endsIn P (acpkmBody section_ k src a len bs i j) := by
  have hd : endsIn P (if 0 < i ∧ i % section_ = 0 then Machine.deriveNext k j else .ok j) := by
    split
    · exact hP.deriveNext hj
    · exact hj
  unfold Machine.acpkmBody
  split
  · next h => rw [h] at hd; exact hd
  · next h => rw [h] at hd; exact hP.ctrBody hd hr

theorem KeptByWork.cmacChain (hP : KeptByWork k dst n P) {src bs : Nat} :
    ∀ (m i : Nat) (chain : List Byte) (j : Job), P j.st → endsIn P ((cmacChain k src bs m i chain j).map Prod.fst) := by
  intro m
  induction m with
  | zero => exact fun i chain j hj => hj
  | succ m ih =>
    intro i chain j hj
    cases hb : Machine.blockCall .encrypt k (xorBytes chain (j.st.load (src + i * bs) bs)) j with
    | error j1 =>
      simp only [Machine.cmacChain, hb]
      exact (blockCall_error hb).1 ▸ hj
    | ok r =>
      simp only [Machine.cmacChain, hb]
      exact ih _ _ _ (hP.blockCall hj hb)

theorem KeptByWork.cmacJob {tagLen : Nat} (hP : KeptByWork k dst tagLen P) {src len bs : Nat} (hj : P j.st) :
    endsIn P (cmacJob k src len dst tagLen bs j) := by
  simp only [Machine.cmacJob]
  cases h1 : Machine.blockCall .encrypt k (List.replicate bs 0) j with
  | error j1 => exact (blockCall_error h1).1 ▸ hj
  | ok r1 =>
    obtain ⟨j1, l⟩ := r1
    have hc := hP.cmacChain (src := src) (bs := bs) (max 1 (ceilDiv len bs) - 1) 0 (List.replicate bs 0) j1
      (hP.blockCall hj h1)
    simp only
    cases h2 : Machine.cmacChain k src bs (max 1 (ceilDiv len bs) - 1) 0 (List.replicate bs 0) j1 with
    | error j2 => rw [h2] at hc; exact hc
    | ok r2 =>
      obtain ⟨j2, chain⟩ := r2
      rw [h2] at hc
      simp only
      split
      · next j3 h3 => exact (blockCall_error h3).1 ▸ hc
      · next j3 tag h3 => exact hP.store _ _ _ _ (hP.blockCall hc h3) fun _ => ⟨le_rfl, le_rfl⟩

/-! #### The loops of the modes -/

/-- A loop over whole blocks writes inside `len` bytes of output. -/
theorem wholeBlocks_endsIn {len bs a : Nat} {body : Nat → Job → Except Job Job}
    (hbody : ∀ i j, P j.st → (0 < bs → a ≤ a + i * bs ∧ a + i * bs + bs ≤ a + len) → endsIn P (body i j))
    (hj : P j.st) : endsIn P (blocksLoop body (len / bs) 0 j) := by
  refine blocksLoop_endsIn _ _ _ (fun i j hi hj => hbody i j hj fun _ => ⟨Nat.le_add_right _ _, ?_⟩) hj
  have hend : (i + 1) * bs ≤ len := (Nat.mul_le_mul_right bs (by omega)).trans (Nat.div_mul_le_self len bs)
  rw [Nat.succ_mul] at hend
  omega

/-- So does one whose last block may be partial. -/
theorem partialBlocks_endsIn {len bs a : Nat} {body : Nat → Job → Except Job Job} (m : Nat)
    (hbody : ∀ i j, P j.st →
      (0 < min bs (len - i * bs) → a ≤ a + i * bs ∧ a + i * bs + min bs (len - i * bs) ≤ a + len) → endsIn P (body i j))
    (hj : P j.st) : endsIn P (blocksLoop body m 0 j) :=
  blocksLoop_endsIn _ _ _ (fun i j _ hj => hbody i j hj fun _ => by omega) hj

end

end Sys2Proof.Machine
end

section
/-! ### What a host command can do

Every host command is its checks and one end; past the checks it differs from the state it started in at most in its result
registers, in what `EffectFrame` leaves open, and in the latches, which every end without a fault zeroes. -/

namespace Sys2Proof.Machine

/-! #### The frame of an effect -/

/-- The limits of a host command's effect, before its result registers are written: `u` differs from `s` at most in the named
slot, in the output range, in `TBL` for an init command, and in the draw counter; only a new key raises a counter, and a bound
slot that stays present keeps its kind and block size. -/
structure EffectFrame (i : Instr) (s u : State) : Prop where
  regs : u.p = s.p ∧ u.cmd = s.cmd ∧ u.par = s.par ∧ u.agenda = s.agenda
  fault : u.fault = s.fault
  other : ∀ k : SlotId, i.namedSlot ≠ some k → u.slot k = s.slot k
  tbl : i.initsTables = false → u.tbl = s.tbl
  byte : ∀ a, (a < s.buf1.addr ∨ s.buf1.addr + outBytes i s ≤ a) → u.byte a = s.byte a
  counter : ∀ k : SlotId, i ≠ .setKey k → (∀ n, i ≠ .setKeyRandom k n) →
    (u.slot k).resourceCounter.toNat ≤ (s.slot k).resourceCounter.toNat
  bound : ∀ k : SlotId, (s.slot k).kind ≠ .unbound → (s.slot k).present = true → (u.slot k).present = true →
    (u.slot k).kind = (s.slot k).kind ∧ (u.slot k).blockSize = (s.slot k).blockSize

theorem EffectFrame.refl (i : Instr) (s : State) : EffectFrame i s s where
  regs := ⟨rfl, rfl, rfl, rfl⟩
  fault := rfl
  other _ _ := rfl
  tbl _ := rfl
  byte _ _ := rfl
  counter _ _ _ := le_rfl
  bound _ _ _ _ := ⟨rfl, rfl⟩

section
variable {i : Instr} {s u : State}

theorem EffectFrame.setSlot (h : EffectFrame i s u) {k : SlotId} (hk : i.namedSlot = some k) {sl : Slot}
    (hcounter : i ≠ .setKey k → (∀ n, i ≠ .setKeyRandom k n) →
      sl.resourceCounter.toNat ≤ (u.slot k).resourceCounter.toNat)
    (hbound : (s.slot k).kind ≠ .unbound → (s.slot k).present = true → sl.present = true →
      sl.kind = (s.slot k).kind ∧ sl.blockSize = (s.slot k).blockSize) :
    EffectFrame i s (u.setSlot k sl) where
  regs := h.regs
  fault := h.fault
  other k' hk' := by
    have hne : k' ≠ k := fun e => hk' (e ▸ hk)
    rw [State.slot_setSlot_other u hne, h.other k' hk']
  tbl := h.tbl
  byte := h.byte
  counter k' h1 h2 := by
    by_cases e : k' = k
    · subst e
      rw [State.slot_setSlot_same]
      exact (hcounter h1 h2).trans (h.counter k' h1 h2)
    · rw [State.slot_setSlot_other u e]
      exact h.counter k' h1 h2
  bound k' := by
    by_cases e : k' = k
    · subst e
      rw [State.slot_setSlot_same]
      exact hbound
    · rw [State.slot_setSlot_other u e]
      exact h.bound k'

/-- An update of the named slot that leaves `present`, the kind and the block size as they are. -/
theorem EffectFrame.setSlot_same_algorithm (h : EffectFrame i s u) {k : SlotId} (hk : i.namedSlot = some k) {sl : Slot}
    (hcounter : i ≠ .setKey k → (∀ n, i ≠ .setKeyRandom k n) →
      sl.resourceCounter.toNat ≤ (u.slot k).resourceCounter.toNat)
    (hpresent : sl.present = (u.slot k).present) (hkind : sl.kind = (u.slot k).kind)
    (hsize : sl.blockSize = (u.slot k).blockSize) : EffectFrame i s (u.setSlot k sl) :=
  h.setSlot hk hcounter fun h1 h2 h3 => by
    rw [hkind, hsize]
    exact h.bound k h1 h2 (hpresent ▸ h3)

theorem EffectFrame.store (h : EffectFrame i s u) {a m : Nat} (v : List Byte)
    (hr : 0 < m → s.buf1.addr ≤ a ∧ a + m ≤ s.buf1.addr + outBytes i s) : EffectFrame i s (u.store a m v) where
  regs := h.regs
  fault := h.fault
  other := h.other
  tbl := h.tbl
  byte x hx := by
    have hlen : (v.take m).length ≤ m := List.length_take_le m v
    exact (Memory.read_writeBytes_outside u.mem a (v.take m) (by omega)).trans (h.byte x hx)
  counter := h.counter
  bound := h.bound

end

/-! #### What the updates of a slot write -/

/-- A chain block is written to `iv_buffer` alone. -/
theorem Slot.setChain_eq (sl : Slot) (b : List Byte) : ∃ iv, sl.setChain b = { sl with ivBuffer := iv } := ⟨_, rfl⟩

/-- An IV is loaded into `iv_buffer` and `iv_length` alone. -/
theorem Slot.loadIv_eq (sl : Slot) (b : List Byte) :
    ∃ iv, sl.loadIv b = { sl with ivBuffer := iv, ivLength := BitVec.ofNat 8 b.length } := ⟨_, rfl⟩

/-- Scheduling writes the round keys and their number alone. -/
theorem Slot.scheduleKeys_eq (par : Params) (tbl : TableSet) (sl : Slot) :
    ∃ rk nrk, Slot.scheduleKeys par tbl sl = { sl with rk := rk, nrk := nrk } := by
  unfold Slot.scheduleKeys
  cases sl.kind <;> exact ⟨_, _, rfl⟩

/-- Installing a key writes the key's own fields and the round keys alone (41_key_object.md R136). -/
theorem Slot.installKey_eq (par : Params) (tbl : TableSet) (sl : Slot) (kb : List Byte) :
    ∃ rk nrk, Slot.installKey par tbl sl kb =
      { sl with
        key := keyField kb
        keyLen := BitVec.ofNat 8 kb.length
        keyTag := Config.icode kb
        keySet := true
        rk := rk
        nrk := nrk } := by
  unfold Slot.installKey
  obtain ⟨rk, nrk, h⟩ := Slot.scheduleKeys_eq par tbl
    { { sl.eraseKeys with key := Vector.replicate 32 0, keyLen := 0, keyTag := 0 } with
      key := keyField kb, keyLen := BitVec.ofNat 8 kb.length, keyTag := Config.icode kb, keySet := true }
  exact ⟨rk, nrk, h⟩

/-! #### The effect of each command -/

/-- The work of a command whose output has the length that R69 names stays within the command's frame. -/
theorem effectFrame_keptByWork {i : Instr} {s : State} {k : SlotId} (hk : i.namedSlot = some k) :
    KeptByWork k s.buf1.addr (outBytes i s) (EffectFrame i s) where
  spend t h hc := by
    refine h.setSlot_same_algorithm hk (fun _ _ => ?_) rfl rfl rfl
    have : (t.slot k).resourceCounter.toNat ≠ 0 := fun e => hc (BitVec.eq_of_toNat_eq e)
    change ((t.slot k).resourceCounter - 1).toNat ≤ _
    bv_omega
  chain t b h := by
    obtain ⟨iv, hiv⟩ := Slot.setChain_eq (t.slot k) b
    rw [hiv]
    exact h.setSlot_same_algorithm hk (fun _ _ => le_rfl) rfl rfl rfl
  store t v a m h hr := h.store v hr
  install t kb h _ := by
    obtain ⟨rk, nrk, hi⟩ := Slot.installKey_eq t.par t.tbl (t.slot k) kb
    rw [hi]
    exact h.setSlot_same_algorithm hk (fun _ _ => le_rfl) rfl rfl rfl

/-- `e` is the end of command `i` on `s`: result registers written over a state within the command's frame. -/
def Concludes (i : Instr) (s e : State) : Prop :=
  ∃ u err done req, e = u.conclude i.namedSlot err done req ∧ EffectFrame i s u

theorem Concludes.of_frame {i : Instr} {s u : State} (h : EffectFrame i s u) (err : Byte) (done req : Nat) :
    Concludes i s (u.conclude i.namedSlot err done req) := ⟨u, err, done, req, rfl, h⟩

theorem concludes_finishJob {i : Instr} {s : State} {k : SlotId} (hk : i.namedSlot = some k) {req : Nat}
    {r : Except Job Job} (h : endsIn (EffectFrame i s) r) : Concludes i s (finishJob k req r) := by
  rw [Concludes, hk]
  cases r with
  | ok j => exact ⟨j.st, _, _, _, rfl, h⟩
  | error j => exact ⟨j.st, _, _, _, rfl, h⟩

section
variable {s : State} {k : SlotId}

/-- A builder command stores 256 bytes or nothing. -/
theorem effectFrame_store256 {i : Instr} (hout : outBytes i s = 256) (v : List Byte) :
    EffectFrame i s (s.store s.buf1.addr 256 v) :=
  (EffectFrame.refl i s).store v fun _ => by omega

theorem concludes_installTables {i : Instr} (hi : i.initsTables = true) (hk : i.namedSlot = none) (m : Matrix16)
    (t : ByteTable) : Concludes i s (s.installTables m t) := by
  have hfail : ∀ e, Concludes i s (s.raise none e 0 0) := fun e => by
    rw [← hk]
    exact .of_frame (.refl i s) _ _ _
  unfold State.installTables
  split
  · exact hfail _
  split
  · exact hfail _
  rw [← hk]
  refine .of_frame (u := { s with tbl := _ }) ?_ _ _ _
  exact { EffectFrame.refl i s with tbl := fun h => absurd (hi.symm.trans h) (by decide) }

theorem concludes_setKey {i : Instr} (hk : i.namedSlot = some k) (hi : i = .setKey k ∨ ∃ n, i = .setKeyRandom k n)
    {u : State} (h : EffectFrame i s u) (kb : List Byte) : Concludes i s (u.setKey k kb) := by
  obtain ⟨rk, nrk, hinst⟩ := Slot.installKey_eq u.par u.tbl (u.slot k) kb
  rw [State.setKey, hinst, ← hk]
  refine .of_frame ?_ _ _ _
  refine h.setSlot_same_algorithm hk (fun h1 h2 => ?_) rfl rfl rfl
  obtain rfl | ⟨n, rfl⟩ := hi
  · exact absurd rfl h1
  · exact absurd rfl (h2 n)

theorem concludes_create {n : Nat} (hp : (s.slot k).present = false) :
    Concludes (.create k n) s
      ((s.setSlot k { Slot.zero with present := true, blockSize := BitVec.ofNat 8 n }).succeed (some k) 0 0) := by
  refine .of_frame ?_ _ _ _
  exact (EffectFrame.refl _ s).setSlot rfl (fun _ _ => Nat.zero_le _) fun _ h => absurd (hp.symm.trans h) (by decide)

theorem concludes_bind {kind : BindKind} (hu : (s.slot k).kind = .unbound) :
    Concludes (.bind k kind) s ((s.setSlot k { s.slot k with kind := kindOfBind kind }).succeed (some k) 0 0) := by
  refine .of_frame ?_ _ _ _
  exact (EffectFrame.refl _ s).setSlot rfl (fun _ _ => le_rfl) fun h => absurd hu h

theorem concludes_destroy :
    Concludes (.destroy k) s ((if (s.slot k).present then s.setSlot k Slot.zero else s).succeed (some k) 0 0) := by
  refine .of_frame ?_ _ _ _
  split
  · exact (EffectFrame.refl _ s).setSlot rfl (fun _ _ => Nat.zero_le _) fun _ _ h => absurd h (by decide)
  · exact .refl _ s

theorem effectFrame_loadIv {i : Instr} (hk : i.namedSlot = some k) (b : List Byte) : EffectFrame i s (s.loadIv k b) := by
  obtain ⟨iv, hiv⟩ := Slot.loadIv_eq (s.slot k) b
  rw [State.loadIv, hiv]
  exact (EffectFrame.refl i s).setSlot_same_algorithm hk (fun _ _ => le_rfl) rfl rfl rfl

end

/-- Every host command is a list of checks and an end within its frame (41_key_object.md R130, 43_modes.md R180,
40_table_builder.md R107). -/
theorem exec_host {i : Instr} (hi : i.hostIssuable = true) (s : State) :
    ∃ cs e, exec i s = command s i.namedSlot cs e ∧ (firstStop cs = none → Concludes i s e) := by
  cases i with
  | genMatrix => exact ⟨_, _, rfl, fun _ => .of_frame (effectFrame_store256 rfl _) _ _ _⟩
  | invMatrix =>
    refine ⟨_, _, rfl, fun _ => ?_⟩
    split
    · exact .of_frame (.refl _ s) _ _ _
    · exact .of_frame (effectFrame_store256 rfl _) _ _ _
  | invPerm =>
    refine ⟨_, _, rfl, fun _ => ?_⟩
    split
    · exact .of_frame (.refl _ s) _ _ _
    · exact .of_frame (effectFrame_store256 rfl _) _ _ _
  | initTables => exact ⟨_, _, rfl, fun _ => concludes_installTables rfl rfl _ _⟩
  | initDefault variant =>
    refine ⟨_, _, execInitDefault.eq_1 variant s, fun _ => ?_⟩
    split
    · exact .of_frame (.refl _ s) _ _ _
    · exact concludes_installTables rfl rfl _ _
  | create k n =>
    exact ⟨_, _, rfl, fun hc => concludes_create (firstStop_eq_none.mp hc _ List.mem_cons_self)⟩
  | bind k kind =>
    refine ⟨_, _, rfl, fun hc => concludes_bind ?_⟩
    simpa using firstStop_eq_none.mp hc _ (List.mem_cons_of_mem _ List.mem_cons_self)
  | setKey k => exact ⟨_, _, rfl, fun _ => concludes_setKey rfl (.inl rfl) (.refl _ s) _⟩
  | setKeyRandom k n =>
    refine ⟨_, _, rfl, fun _ => ?_⟩
    have hdraw : EffectFrame (.setKeyRandom k n) s { s with draws := s.draws + 1 } := { EffectFrame.refl _ s with }
    split
    · exact .of_frame hdraw _ _ _
    · exact concludes_setKey rfl (.inr ⟨n, rfl⟩) hdraw _
  | deriveNext k =>
    exact ⟨_, _, rfl, fun _ => concludes_finishJob rfl ((effectFrame_keptByWork rfl).deriveNext (.refl _ s))⟩
  | destroy k => exact ⟨_, _, execDestroy.eq_1 k s, fun _ => concludes_destroy⟩
  | ecbEnc k | ecbDec k =>
    exact ⟨_, _, rfl, fun _ => concludes_finishJob rfl
      (wholeBlocks_endsIn (fun _ _ hj hr => (effectFrame_keptByWork rfl).ecbBody hj hr) (.refl _ s))⟩
  | cbcEnc k =>
    exact ⟨_, _, rfl, fun _ => concludes_finishJob rfl
      (wholeBlocks_endsIn (fun _ _ hj hr => (effectFrame_keptByWork rfl).cbcEncBody hj hr) (effectFrame_loadIv rfl _))⟩
  | cbcDec k =>
    exact ⟨_, _, rfl, fun _ => concludes_finishJob rfl
      (wholeBlocks_endsIn (fun _ _ hj hr => (effectFrame_keptByWork rfl).cbcDecBody hj hr) (effectFrame_loadIv rfl _))⟩
  | ctr k =>
    exact ⟨_, _, rfl, fun _ => concludes_finishJob rfl
      (partialBlocks_endsIn _ (fun _ _ hj hr => (effectFrame_keptByWork rfl).ctrBody hj hr) (effectFrame_loadIv rfl _))⟩
  | ctrAcpkm k =>
    exact ⟨_, _, rfl, fun _ => concludes_finishJob rfl
      (partialBlocks_endsIn _ (fun _ _ hj hr => (effectFrame_keptByWork rfl).acpkmBody hj hr)
        (effectFrame_loadIv rfl _))⟩
  | cmac k => exact ⟨_, _, rfl, fun _ => concludes_finishJob rfl ((effectFrame_keptByWork rfl).cmacJob (.refl _ s))⟩
  | encryptBlock | decryptBlock | scheduleKeys | eraseKeys | addRoundKey | subBytes | linear | linearLast | invSubBytes
  | invLinear | invLinearLast | roundT | invRoundT | shiftRows | mixColumns | invShiftRows | invMixColumns | lfsrStep =>
    cases hi

/-- Everything a host command's next state can be. -/
theorem exec_host_cases {i : Instr} {s t : State} (hi : i.hostIssuable = true) (h : exec i s = .next t) :
    (s.fault = true ∧ t = s.endFaulted) ∨ (s.fault = false ∧ ∃ c, t = s.breach c) ∨
    (s.fault = false ∧ Concludes i s t) := by
  obtain ⟨cs, e, hexec, he⟩ := exec_host hi s
  obtain ⟨hf, rfl⟩ | ⟨hf, err, req, -, rfl⟩ | ⟨hf, c, -, rfl⟩ | ⟨hf, hc, rfl⟩ := command_cases (hexec ▸ h)
  · exact .inl ⟨hf, rfl⟩
  · exact .inr (.inr ⟨hf, .of_frame (.refl i s) _ _ _⟩)
  · exact .inr (.inl ⟨hf, c, rfl⟩)
  · exact .inr (.inr ⟨hf, he hc⟩)

/-- A host command that meets `FAULT = 1` (10_state.md R25). -/
theorem exec_host_faulted {i : Instr} {s : State} (hi : i.hostIssuable = true) (hf : s.fault = true) :
    exec i s = .next s.endFaulted := by
  obtain ⟨cs, e, hexec, -⟩ := exec_host hi s
  rw [hexec, command_faulted hf]

end Sys2Proof.Machine
end

section
/-! ### What internal operations, codes and steps can change; faults and the table set -/

namespace Sys2Proof.Machine

/-! #### Command words name host commands -/

theorem whenZero_eq_ok {zero : Bool} {i j : Instr} (h : whenZero zero i = .ok j) : j = i := by
  cases zero <;> cases h
  rfl

/-- A command word is never the code of an internal operation (30_encoding.md R85, R86). -/
theorem hostIssuable_of_decode {w : BitVec 32} {i : Instr} (h : decode (.command w) = .ok i) : i.hostIssuable = true := by
  simp only [decode, decodeCommand] at h
  split at h
  case h_5 =>
    split at h
    · rw [whenZero_eq_ok h]; rfl
    · cases h
  case h_7 =>
    split at h
    · rw [whenZero_eq_ok h]; rfl
    · cases h
  case h_19 => cases h
  all_goals rw [whenZero_eq_ok h]; rfl

/-! #### Internal operations -/

/-- An internal operation writes latches, the slot it acts on and the draw counter, and nothing else. -/
def State.InternalFrame (s t : State) : Prop := t = { s with slots := t.slots, seq := t.seq, draws := t.draws }

theorem State.internalFrame_setV (s : State) (v : Vec16) : s.InternalFrame (s.setV v) := rfl

theorem State.internalFrame_setTableV (s : State) (v : Vec16) : s.InternalFrame (s.setTableV v) := by
  unfold State.setTableV
  split <;> rfl

theorem State.InternalFrame.of_next_eq {s t u : State} (hu : s.InternalFrame u)
    (h : (.next u : Host.Outcome State Fault Refusal) = .next t) : s.InternalFrame t :=
  Host.Outcome.next.inj h ▸ hu

theorem blockEntry_internalFrame {s t : State} {dir : Direction} (h : blockEntry dir s = .next t) : s.InternalFrame t := by
  simp only [blockEntry] at h
  split at h
  · cases h
  split at h
  · cases h
  split at h
  · exact (s.internalFrame_setV _).of_next_eq h
  · exact (s.internalFrame_setTableV _).of_next_eq h

theorem execScheduleKeys_internalFrame {s t : State} (h : execScheduleKeys s = .next t) : s.InternalFrame t := by
  simp only [execScheduleKeys] at h
  split at h
  · cases h
  split at h
  · cases h
  split at h <;> cases h <;> rfl

theorem execLinearLast_internalFrame {s t : State} (h : execLinearLast s = .next t) : s.InternalFrame t := by
  simp only [execLinearLast] at h
  split at h
  · exact (s.internalFrame_setTableV _).of_next_eq h
  · exact (s.internalFrame_setV _).of_next_eq h

theorem execInvLinearLast_internalFrame {s t : State} (h : execInvLinearLast s = .next t) : s.InternalFrame t := by
  simp only [execInvLinearLast] at h
  split at h
  · exact (s.internalFrame_setTableV _).of_next_eq h
  · exact (s.internalFrame_setV _).of_next_eq h

theorem aesStage_internalFrame {s t : State} {f : Vec16 → Vec16} (h : aesStage f s = .next t) : s.InternalFrame t := by
  unfold aesStage at h
  split at h
  · exact (s.internalFrame_setV _).of_next_eq h
  · cases h

theorem exec_internalFrame {i : Instr} {s t : State} (hi : i.hostIssuable = false) (h : exec i s = .next t) :
    s.InternalFrame t := by
  cases i with
  | encryptBlock | decryptBlock => exact blockEntry_internalFrame h
  | scheduleKeys => exact execScheduleKeys_internalFrame h
  | eraseKeys => cases h; rfl
  | addRoundKey | lfsrStep => exact (s.internalFrame_setV _).of_next_eq h
  | subBytes | linear | invSubBytes | invLinear | roundT | invRoundT => exact (s.internalFrame_setTableV _).of_next_eq h
  | linearLast => exact execLinearLast_internalFrame h
  | invLinearLast => exact execInvLinearLast_internalFrame h
  | shiftRows | mixColumns | invShiftRows | invMixColumns => exact aesStage_internalFrame h
  | genMatrix | invMatrix | invPerm | initTables | initDefault _ | create _ _ | bind _ _ | setKey _ | setKeyRandom _ _
  | deriveNext _ | destroy _ | ecbEnc _ | ecbDec _ | cbcEnc _ | cbcDec _ | ctr _ | ctrAcpkm _ | cmac _ => cases hi

/-! #### The table invariant -/

/-- The table invariant speaks of the parameters and `TBL` alone. -/
theorem State.TablesOk.of_eq {s t : State} (h : s.TablesOk) (hpar : t.par = s.par) (htbl : t.tbl = s.tbl) : t.TablesOk := by
  simpa only [State.TablesOk, hpar, htbl] using h

/-- Whatever the matrix and the table are, installing them leaves a consistent set, or the one before (R117). -/
theorem installTables_tablesOk {s : State} (h : s.TablesOk) (m : Matrix16) (p : ByteTable) : (s.installTables m p).TablesOk := by
  by_cases hm : Invertible s.par.profile.poly m
  · by_cases hp : Permutation p
    · obtain ⟨minv, tinv, hi, hcons⟩ := State.installTables_ok h.1 hm hp
      rw [hi]
      exact ⟨h.1, fun _ => hcons⟩
    · rw [State.installTables_not_permutation h.1 hm hp]
      exact h.of_eq rfl rfl
  · rw [State.installTables_singular h.1 hm]
    exact h.of_eq rfl rfl

/-- A command whose effect keeps the table invariant keeps it. -/
theorem command_tablesOk {s t e : State} {k : Option SlotId} {cs : List Check} (hs : s.TablesOk) (he : e.TablesOk)
    (h : command s k cs e = .next t) : t.TablesOk := by
  obtain ⟨-, rfl⟩ | ⟨-, err, req, -, rfl⟩ | ⟨-, c, -, rfl⟩ | ⟨-, -, rfl⟩ := command_cases h
  · exact hs.of_eq rfl rfl
  · exact hs.of_eq rfl rfl
  · exact hs.of_eq rfl rfl
  · exact he

theorem execInitDefault_tablesOk {s t : State} {variant : Variant} (hs : s.TablesOk)
    (h : execInitDefault variant s = .next t) : t.TablesOk := by
  refine command_tablesOk hs ?_ h
  split
  · exact hs.of_eq rfl rfl
  · exact installTables_tablesOk hs _ _

/-- Every instruction but the two init commands leaves `TBL` as it is (10_state.md R42). -/
theorem exec_tbl {i : Instr} {s t : State} (hi : i.initsTables = false) (h : exec i s = .next t) : t.tbl = s.tbl := by
  cases hhost : i.hostIssuable with
  | false =>
    rw [exec_internalFrame hhost h]
  | true =>
    obtain ⟨-, rfl⟩ | ⟨-, c, rfl⟩ | ⟨-, u, err, done, req, rfl, hu⟩ := exec_host_cases hhost h
    · rfl
    · rfl
    · exact hu.tbl hi

theorem exec_tablesOk {i : Instr} {s t : State} (hs : s.TablesOk) (h : exec i s = .next t) : t.TablesOk := by
  cases hinit : i.initsTables with
  | false => exact hs.of_eq (exec_keepsMem h).1 (exec_tbl hinit h)
  | true =>
    cases i with
    | initTables => exact command_tablesOk hs (installTables_tablesOk hs _ _) h
    | initDefault variant => exact execInitDefault_tablesOk hs h
    | _ => cases hinit

/-! #### Codes and events -/

/-- A command word runs its instruction, or is illegal. -/
theorem issueCommand_cases {w : BitVec 32} {s t : State} (h : issueCommand w s = .next t) :
    (∃ i, i.hostIssuable = true ∧ exec i { s with cmd := w } = .next t) ∨ t = ({ s with cmd := w } : State).endInvalid := by
  unfold issueCommand at h
  split at h
  · next i hd => exact .inl ⟨i, hostIssuable_of_decode hd, h⟩
  · cases h; exact .inr rfl

/-- An internal code that answers runs its instruction. -/
theorem issueInternal_cases {c : Code} {s t : State} (h : issueInternal c s = .next t) : ∃ i, exec i s = .next t := by
  unfold issueInternal at h
  split at h
  · next i _ => exact ⟨i, h⟩
  · cases h

/-- What no instruction breaks, and no write of `CMD` and end of an illegal word, an issued code keeps. -/
theorem issue_keeps {P : State → Prop} (hexec : ∀ i s t, P s → exec i s = .next t → P t)
    (hcmd : ∀ s w, P s → P { s with cmd := w }) (hinvalid : ∀ s, P s → P s.endInvalid) {c : Code} {s t : State} (hs : P s)
    (h : issue c s = .next t) : P t := by
  have hinternal : ∀ c, issueInternal c s = .next t → P t := fun c h => by
    obtain ⟨i, h⟩ := issueInternal_cases h
    exact hexec i s t hs h
  cases c with
  | command w =>
    obtain ⟨i, -, h⟩ | rfl := issueCommand_cases h
    · exact hexec i _ t (hcmd s w hs) h
    · exact hinvalid _ (hcmd s w hs)
  | entry e => exact hinternal (.entry e) h
  | micro e => exact hinternal (.micro e) h

theorem State.TablesOk.endInvalid {s : State} (hs : s.TablesOk) : s.endInvalid.TablesOk := by
  unfold State.endInvalid
  split <;> exact hs.of_eq rfl rfl

theorem runEvent_tablesOk {e : Event} {s t : State} (hs : s.TablesOk) (h : runEvent e s = .next t) : t.TablesOk := by
  cases e with
  | writeP i v => cases h; exact hs.of_eq rfl rfl
  | writeMem addr bytes =>
    simp only [runEvent, hostWriteMem] at h
    split at h <;> cases h
    exact hs.of_eq rfl rfl
  | issue c =>
    exact issue_keeps (fun _ _ _ => exec_tablesOk) (fun _ _ hs => hs.of_eq rfl rfl) (fun _ => State.TablesOk.endInvalid) hs h
  | latch q => cases h; exact hs.of_eq rfl rfl
  | reset cells tables => cases h; exact ⟨hs.1, nofun⟩

/-- Settles O27: only the init commands and reset write `TBL`; the first install a consistent set, the second an invalid
one. -/
theorem tableInvariant : Obligations.TableInvariant := by
  intro s t hs h
  cases ha : s.agenda with
  | nil => rw [step_idle ha] at h; cases h; exact hs
  | cons e rest =>
    rw [step_cons ha] at h
    exact runEvent_tablesOk (s := { s with agenda := rest }) (hs.of_eq rfl rfl) h

/-! #### Faults -/

/-- `FAULT` is cleared by no instruction (10_state.md R25). -/
theorem exec_fault {i : Instr} {s t : State} (hf : s.fault = true) (h : exec i s = .next t) : t.fault = true := by
  cases hhost : i.hostIssuable with
  | false => rw [exec_internalFrame hhost h]; exact hf
  | true =>
    rw [exec_host_faulted hhost hf] at h
    cases h
    exact hf

theorem State.endInvalid_faulted {s : State} (hf : s.fault = true) : s.endInvalid = s.endFaulted := if_pos hf

/-- The effect of a host command sets no fault, so a fault it sets is the breach of a check. -/
theorem exec_host_breach {i : Instr} {s t : State} (hi : i.hostIssuable = true) (hf : s.fault = false)
    (h : exec i s = .next t) (ht : t.fault = true) : ∃ c, t = s.breach c := by
  obtain ⟨hf', -⟩ | ⟨-, hc⟩ | ⟨-, u, err, done, req, rfl, hu⟩ := exec_host_cases hi h
  · exact absurd (hf.symm.trans hf') (by decide)
  · exact hc
  · have : s.fault = true := hu.fault ▸ ht
    exact absurd (hf.symm.trans this) (by decide)

theorem causeCode_cases (c : FaultCause) : causeCode c = 1 ∨ causeCode c = 2 ∨ causeCode c = 3 := by
  cases c <;> decide

/-- Settles O9: a fault is set by a failed check alone, and ends every command that meets it. -/
theorem faultEndsEveryCommand : Obligations.FaultEndsEveryCommand := by
  refine ⟨fun i s t hi hf h ht => ?_, fun i s hi hf => exec_host_faulted hi hf, fun s w rest ha hf => ?_⟩
  · obtain ⟨c, rfl⟩ := exec_host_breach hi hf h ht
    exact ⟨rfl, causeCode_cases c⟩
  · rw [step_cons ha]
    cases hd : decode (.command w) with
    | ok i =>
      refine (issueCommand_of_decode hd).trans ?_
      exact exec_host_faulted (s := { s with agenda := rest, cmd := w }) (hostIssuable_of_decode hd) hf
    | error e =>
      simp only [runEvent, issue, issueCommand, hd]
      exact congrArg _ (State.endInvalid_faulted (s := { s with agenda := rest, cmd := w }) hf)

/-! #### Reset -/

/-- Writing a byte beyond every listed address appends its cell. -/
theorem Memory.write_append {m : List Host.Cell} {c : Host.Cell} (hm : ∀ d ∈ m, d.1 < c.1) (hc : c.2 ≠ unlistedByte) :
    Memory.write m c.1 c.2 = m ++ [c] := by
  have hfilter : (m.filter fun d => d.1 != c.1) = m :=
    List.filter_eq_self.mpr fun d hd => by simpa using (hm d hd).ne
  have hinsert : ∀ l : List Host.Cell, (∀ d ∈ l, d.1 < c.1) → Memory.insert c l = l ++ [c] := by
    intro l
    induction l with
    | nil => exact fun _ => rfl
    | cons d l ih =>
      intro hl
      have hd : ¬ c.1 < d.1 := (hl d List.mem_cons_self).not_gt
      simp only [Memory.insert, hd, if_false, List.cons_append]
      rw [ih fun e he => hl e (List.mem_cons_of_mem _ he)]
  simp only [Memory.write, if_neg hc, hfilter]
  exact hinsert m hm

/-- Memory in canonical form is the memory of its own cells. -/
theorem Memory.ofCells_of_wf {size : Nat} {cells : List Host.Cell} (h : Memory.wf cells = true)
    (hin : ∀ c ∈ cells, c.1 < size) : Memory.ofCells size cells = cells := by
  rw [Memory.wf_iff] at h
  have hfilter : (cells.filter fun c => decide (c.1 < size)) = cells :=
    List.filter_eq_self.mpr fun c hc => decide_eq_true (hin c hc)
  rw [Memory.ofCells, hfilter]
  suffices ∀ l m : List Host.Cell, (m ++ l).Pairwise (fun c d => c.1 < d.1) → (∀ c ∈ l, c.2 ≠ unlistedByte) →
      l.foldl (fun m c => Memory.write m c.1 c.2) m = m ++ l from this cells [] h.1 h.2
  intro l
  induction l with
  | nil => exact fun m _ _ => (List.append_nil m).symm
  | cons c l ih =>
    intro m hs hz
    have hlt : ∀ d ∈ m, d.1 < c.1 := fun d hd => (List.pairwise_append.mp hs).2.2 d hd c List.mem_cons_self
    rw [List.foldl_cons, Memory.write_append hlt (hz c List.mem_cons_self)]
    refine (ih _ (by simpa using hs) fun d hd => hz d (List.mem_cons_of_mem _ hd)).trans ?_
    simp

theorem State.afterReset_slot (s : State) (cells : List Host.Cell) (tables : TableSet) (k : SlotId) :
    (s.afterReset cells tables).slot k = Slot.zero := State.reset_slot k

theorem runEvent_fault {e : Event} {s t : State} (he : ∀ cells tables, e ≠ .reset cells tables) (hf : s.fault = true)
    (h : runEvent e s = .next t) : t.fault = true := by
  cases e with
  | writeP i v => cases h; exact hf
  | writeMem addr bytes =>
    simp only [runEvent, hostWriteMem] at h
    split at h <;> cases h
    exact hf
  | issue c =>
    exact issue_keeps (P := fun s => s.fault = true) (fun _ _ _ => exec_fault) (fun _ _ hf => hf)
      (fun _ hf => by rw [State.endInvalid_faulted hf]; exact hf) hf h
  | latch q => cases h; exact hf
  | reset cells tables => exact absurd rfl (he cells tables)

/-- Settles O7: the reset event's values, and `FAULT` under every other event. -/
theorem resetEvent : Obligations.ResetEvent := by
  refine ⟨fun s cells tables rest ha => ⟨_, step_cons ha, fun i => ?_, rfl, rfl, rfl, rfl, rfl, rfl, rfl,
    State.afterReset_slot _ cells tables, rfl, rfl, rfl, fun hwf hin => Memory.ofCells_of_wf hwf hin⟩,
    fun s t hr hf h => ?_⟩
  · simp [State.afterReset, State.reset]
  · cases ha : s.agenda with
    | nil => rw [step_idle ha] at h; cases h; exact hf
    | cons e rest =>
      rw [step_cons ha] at h
      refine runEvent_fault (s := { s with agenda := rest }) (fun cells tables he => ?_) hf h
      exact hr cells tables (by rw [ha, he]; rfl)

/-! #### The frame of every host command -/

theorem resWord_toNat_lt (err : Byte) : (resWord err).toNat < 256 := by
  simp only [resWord, BitVec.toNat_setWidth]
  omega

/-- A host command that is stopped by a fault, old or new, writes `FAULT`, `FAULT_CAUSE` and `RES` alone; every other end
is within its frame. -/
theorem exec_host_ends {i : Instr} {s t : State} (hi : i.hostIssuable = true) (h : exec i s = .next t) :
    (∃ fault cause, t = { s with fault := fault, faultCause := cause, res := resWord codeFaulted }) ∨ Concludes i s t := by
  obtain ⟨-, rfl⟩ | ⟨-, c, rfl⟩ | ⟨-, hc⟩ := exec_host_cases hi h
  · exact .inl ⟨_, _, rfl⟩
  · exact .inl ⟨_, _, rfl⟩
  · exact .inr hc

/-- Settles O59, clause by clause from the frame of the command's effect. -/
theorem commandFrame : Obligations.CommandFrame := by
  intro i s t hi h
  obtain ⟨fault, cause, rfl⟩ | ⟨u, err, done, req, rfl, hu⟩ := exec_host_ends hi h
  · exact ⟨⟨rfl, rfl, rfl, rfl⟩, fun _ _ => rfl, fun _ => rfl, fun _ _ => rfl, resWord_toNat_lt _,
      fun hres => absurd rfl hres, fun _ _ _ => le_rfl, fun _ _ _ _ => ⟨rfl, rfl⟩⟩
  · refine ⟨hu.regs, hu.other, hu.tbl, hu.byte, resWord_toNat_lt _, fun _ => ⟨rfl, ?_⟩, hu.counter, hu.bound⟩
    cases i.namedSlot <;> rfl

end Sys2Proof.Machine
end

section
/-! ### The slot invariant (10_state.md R31)

A slot that holds a key has its algorithm's block size, an accepted key length and the round keys of its key; the block work of
a command keeps all of that. A slot without a key meets R31 by the checks of CREATE and BIND. -/

namespace Sys2Proof.Machine

/-! #### Slots that hold a key -/

/-- R31 (b) to (e) of a present slot that holds a key. -/
structure Slot.KeyedOk (par : Params) (sl : Slot) : Prop where
  present : sl.present = true
  keySet : sl.keySet = true
  shape : sl.Shape
  iv : sl.ivLength.toNat % sl.bs = 0 ∧ sl.ivLength.toNat ≤ 64
  accepted : acceptsKeyLen par sl.kind sl.keyLen.toNat = true
  scheduled : ∃ tbl, Slot.scheduleKeys par tbl sl = sl

theorem Slot.Shape.bound {sl : Slot} (h : sl.Shape) : sl.kind ≠ .unbound := by
  obtain ⟨hk, -⟩ | ⟨hk | hk, -⟩ := h <;> simp [hk]

theorem Slot.Shape.blockSize {sl : Slot} (h : sl.Shape) : sl.blockSize = 8 ∨ sl.blockSize = 16 :=
  h.imp And.right And.right

section
variable {par : Params} {sl : Slot}

theorem Slot.ok_of_present (hp : sl.present = true) : sl.Ok par ↔
    (sl.blockSize = 8 ∨ sl.blockSize = 16) ∧ (sl.kind = .unbound ∨ sl.Shape) ∧
    (sl.ivLength.toNat % sl.bs = 0 ∧ sl.ivLength.toNat ≤ 64) ∧
    (sl.keySet = true → sl.kind ≠ .unbound ∧ acceptsKeyLen par sl.kind sl.keyLen.toNat = true ∧
      ∃ tbl, Slot.scheduleKeys par tbl sl = sl) ∧
    (sl.keySet = false → sl.keyLen = 0 ∧ sl.key = Vector.replicate 32 0 ∧ sl.nrk = 0 ∧ sl.rk = RoundKeys.zero) := by
  simp only [Slot.Ok, hp, if_true]

theorem Slot.KeyedOk.ok (h : sl.KeyedOk par) : sl.Ok par := by
  rw [Slot.ok_of_present h.present]
  exact ⟨h.shape.blockSize, .inr h.shape, h.iv, fun _ => ⟨h.shape.bound, h.accepted, h.scheduled⟩,
    fun hk => absurd (h.keySet.symm.trans hk) (by decide)⟩

theorem Slot.Ok.shape (h : sl.Ok par) (hp : sl.present = true) (hb : sl.kind ≠ .unbound) : sl.Shape := by
  obtain ⟨-, hshape, -⟩ := (Slot.ok_of_present hp).mp h
  exact hshape.resolve_left hb

theorem Slot.Ok.keyedOk (h : sl.Ok par) (hp : sl.present = true) (hk : sl.keySet = true) : sl.KeyedOk par := by
  obtain ⟨-, hshape, hiv, hkey, -⟩ := (Slot.ok_of_present hp).mp h
  obtain ⟨hb, hacc, hsched⟩ := hkey hk
  exact ⟨hp, hk, hshape.resolve_left hb, hiv, hacc, hsched⟩

/-! #### The updates of a keyed slot -/

/-- A slot whose round keys are those that scheduling a slot of the same kind and key gives is left as it is by scheduling. -/
theorem Slot.scheduleKeys_of_same_key {tbl : TableSet} {a b : Slot} (hkind : b.kind = a.kind) (hlen : b.keyLen = a.keyLen)
    (hkey : b.key = a.key) (hrk : b.rk = (Slot.scheduleKeys par tbl a).rk)
    (hnrk : b.nrk = (Slot.scheduleKeys par tbl a).nrk) : Slot.scheduleKeys par tbl b = b := by
  cases b
  simp only at hkind hlen hkey hrk hnrk
  subst hkind hlen hkey hrk hnrk
  cases hk : a.kind <;> simp [Slot.scheduleKeys, Slot.keyBytes, hk]

/-- Scheduling an already scheduled slot changes nothing. -/
theorem Slot.scheduleKeys_scheduleKeys (tbl : TableSet) :
    Slot.scheduleKeys par tbl (Slot.scheduleKeys par tbl sl) = Slot.scheduleKeys par tbl sl := by
  obtain ⟨rk, nrk, h⟩ := Slot.scheduleKeys_eq par tbl sl
  rw [h]
  exact Slot.scheduleKeys_of_same_key (a := sl) rfl rfl rfl (by rw [h]) (by rw [h])

/-- The counter and the IV are free but for the IV's length. -/
theorem Slot.KeyedOk.setIv (h : sl.KeyedOk par) (c : BitVec 64) (iv : Vector Byte 64) {n : BitVec 8}
    (hn : n.toNat % sl.bs = 0 ∧ n.toNat ≤ 64) :
    Slot.KeyedOk par { sl with resourceCounter := c, ivBuffer := iv, ivLength := n } where
  present := h.present
  keySet := h.keySet
  shape := h.shape
  iv := hn
  accepted := h.accepted
  scheduled := by
    obtain ⟨tbl, hs⟩ := h.scheduled
    exact ⟨tbl, Slot.scheduleKeys_of_same_key (a := sl) rfl rfl rfl (by rw [hs]) (by rw [hs])⟩

/-- A counter block or an IV of one block is loaded. -/
theorem Slot.KeyedOk.loadIv (h : sl.KeyedOk par) {b : List Byte} (hb : b.length = sl.bs) : (sl.loadIv b).KeyedOk par := by
  obtain ⟨iv, hiv⟩ := Slot.loadIv_eq sl b
  rw [hiv]
  refine h.setIv sl.resourceCounter iv ?_
  rw [hb]
  obtain hbs | hbs := h.shape.blockSize <;> simp [Slot.bs, hbs]

/-- An installed key of an accepted length. -/
theorem Slot.keyedOk_installKey {tbl : TableSet} {kb : List Byte} (hp : sl.present = true) (hshape : sl.Shape)
    (hiv : sl.ivLength.toNat % sl.bs = 0 ∧ sl.ivLength.toNat ≤ 64) (hacc : acceptsKeyLen par sl.kind kb.length = true)
    (hlen : kb.length < 256) : (Slot.installKey par tbl sl kb).KeyedOk par := by
  have hsched : Slot.scheduleKeys par tbl (Slot.installKey par tbl sl kb) = Slot.installKey par tbl sl kb :=
    Slot.scheduleKeys_scheduleKeys tbl
  obtain ⟨rk, nrk, h⟩ := Slot.installKey_eq par tbl sl kb
  rw [h] at hsched ⊢
  refine ⟨hp, rfl, hshape, hiv, ?_, tbl, hsched⟩
  simpa [Nat.mod_eq_of_lt hlen] using hacc

end

/-- The block work of a command keeps a keyed slot well formed. -/
theorem keyedOk_keptByWork (par : Params) (k : SlotId) (dst n : Nat) :
    KeptByWork k dst n fun t => t.par = par ∧ (t.slot k).KeyedOk par where
  spend t h _ := by
    rw [State.slot_setSlot_same]
    exact ⟨h.1, h.2.setIv _ _ h.2.iv⟩
  chain t b h := by
    obtain ⟨iv, hiv⟩ := Slot.setChain_eq (t.slot k) b
    rw [State.slot_setSlot_same, hiv]
    exact ⟨h.1, h.2.setIv (t.slot k).resourceCounter iv h.2.iv⟩
  store t v a m h _ := h
  install t kb h hlen := by
    obtain ⟨hpar, hk⟩ := h
    rw [State.slot_setSlot_same, hpar]
    refine ⟨hpar, Slot.keyedOk_installKey hk.present hk.shape hk.iv ?_ ?_⟩
    · rw [hlen hk.shape]; exact hk.accepted
    · rw [hlen hk.shape]; exact (t.slot k).keyLen.isLt

/-- An accepted key length fits the key field. -/
theorem KeySizesOk.le {par : Params} (h : KeySizesOk par) {kind : Kind} {n : Nat} (ha : acceptsKeyLen par kind n = true) :
    n ≤ 32 := by
  obtain ⟨-, hmem⟩ := acceptsKeyLen_eq_true.mp ha
  cases kind with
  | unbound => cases hmem
  | b8 => exact h.2 n hmem
  | b16t | b16p => exact h.1 n hmem

/-! #### The named slot after each command -/

section
variable {s t : State} {k : SlotId}

/-- A command leaves a slot well formed if its effect does. -/
theorem command_slotOk {e : State} {o : Option SlotId} {cs : List Check} (hs : (s.slot k).Ok s.par)
    (h : command s o cs e = .next t) (he : firstStop cs = none → (e.slot k).Ok s.par) : (t.slot k).Ok s.par := by
  obtain ⟨-, rfl⟩ | ⟨-, err, req, -, rfl⟩ | ⟨-, c, -, rfl⟩ | ⟨-, hc, rfl⟩ := command_cases h
  · exact hs
  · exact hs
  · exact hs
  · exact he hc

theorem finishJob_slotOk {par : Params} {req : Nat} {r : Except Job Job}
    (h : endsIn (fun t => t.par = par ∧ (t.slot k).KeyedOk par) r) : ((finishJob k req r).slot k).Ok par := by
  cases r with
  | ok j => exact h.2.ok
  | error j => exact h.2.ok

theorem execCreate_slotOk {n : Nat} (hs : (s.slot k).Ok s.par) (h : execCreate k n s = .next t) : (t.slot k).Ok s.par := by
  refine command_slotOk hs h fun hc => ?_
  simp only [firstStop_eq_none, List.mem_cons, List.not_mem_nil, or_false, forall_eq_or_imp, forall_eq,
    Bool.and_eq_false_iff, decide_eq_false_iff_not, not_not] at hc
  rw [State.succeed_eq, State.slot_conclude, State.slot_setSlot_same, Slot.ok_of_present rfl]
  refine ⟨?_, .inl rfl, ⟨Nat.zero_mod _, Nat.zero_le _⟩, nofun, fun _ => ⟨rfl, rfl, rfl, rfl⟩⟩
  obtain rfl | rfl := hc.2
  · exact .inl rfl
  · exact .inr rfl

theorem execBind_slotOk {kind : BindKind} (hs : (s.slot k).Ok s.par) (h : execBind k kind s = .next t) :
    (t.slot k).Ok s.par := by
  refine command_slotOk hs h fun hc => ?_
  simp only [firstStop_eq_none, absentCheck, List.mem_cons, List.not_mem_nil, or_false, forall_eq_or_imp, forall_eq,
    Bool.not_eq_false', decide_eq_false_iff_not, not_not] at hc
  obtain ⟨hp, hu, hsize, -⟩ := hc
  obtain ⟨hbs, -, hiv, hkey, hno⟩ := (Slot.ok_of_present hp).mp hs
  have hunkeyed : (s.slot k).keySet = false := by
    cases hk : (s.slot k).keySet with
    | false => rfl
    | true => exact absurd hu (hkey hk).1
  rw [State.succeed_eq, State.slot_conclude, State.slot_setSlot_same, Slot.ok_of_present (by exact hp)]
  refine ⟨hbs, .inr ?_, hiv, fun hk => absurd (hunkeyed.symm.trans hk) (by decide), fun _ => hno hunkeyed⟩
  cases kind with
  | b8 => exact .inl ⟨rfl, hsize⟩
  | b16t => exact .inr ⟨.inl rfl, hsize⟩
  | b16p => exact .inr ⟨.inr rfl, hsize⟩

/-- A key of an accepted length is set on a bound slot. -/
theorem State.setKey_slotOk {kb : List Byte} (hz : KeySizesOk s.par) (hs : (s.slot k).Ok s.par)
    (hp : (s.slot k).present = true) (hb : (s.slot k).kind ≠ .unbound)
    (hacc : acceptsKeyLen s.par (s.slot k).kind kb.length = true) : ((s.setKey k kb).slot k).Ok s.par := by
  have hiv : (s.slot k).ivLength.toNat % (s.slot k).bs = 0 ∧ (s.slot k).ivLength.toNat ≤ 64 := by
    obtain ⟨-, -, hiv, -⟩ := (Slot.ok_of_present hp).mp hs
    exact hiv
  have hkey := Slot.keyedOk_installKey (tbl := s.tbl) hp (hs.shape hp hb) hiv hacc ((hz.le hacc).trans_lt (by decide))
  rw [State.setKey, State.succeed_eq, State.slot_conclude, State.slot_setSlot_same]
  exact (hkey.setIv _ _ ⟨Nat.zero_mod _, Nat.zero_le _⟩).ok

theorem execSetKey_slotOk (hz : KeySizesOk s.par) (hs : (s.slot k).Ok s.par) (h : execSetKey k s = .next t) :
    (t.slot k).Ok s.par := by
  refine command_slotOk hs h fun hc => ?_
  obtain ⟨hkey, -⟩ := firstStop_append_eq_none.mp hc
  simp only [firstStop_eq_none, absentCheck, unboundCheck, List.mem_cons, List.not_mem_nil, or_false, forall_eq_or_imp,
    forall_eq, Bool.not_eq_false', decide_eq_false_iff_not] at hkey
  obtain ⟨hp, -, hb, hacc⟩ := hkey
  exact State.setKey_slotOk hz hs hp hb (by simpa [State.load] using hacc)

theorem execSetKeyRandom_slotOk {n : Nat} (hz : KeySizesOk s.par) (hs : (s.slot k).Ok s.par)
    (h : execSetKeyRandom k n s = .next t) : (t.slot k).Ok s.par := by
  refine command_slotOk hs h fun hc => ?_
  simp only [firstStop_eq_none, absentCheck, unboundCheck, List.mem_cons,
    List.not_mem_nil, or_false, forall_eq_or_imp, forall_eq, Bool.not_eq_false', decide_eq_false_iff_not] at hc
  obtain ⟨hp, hb, hacc⟩ := hc
  split
  · exact hs
  · exact State.setKey_slotOk (s := { s with draws := s.draws + 1 }) hz hs hp hb (by rw [Vector.length_toList]; exact hacc)

theorem execDeriveNext_slotOk (hs : (s.slot k).Ok s.par) (h : execDeriveNext k s = .next t) : (t.slot k).Ok s.par := by
  refine command_slotOk hs h fun hc => finishJob_slotOk ?_
  simp only [firstStop_eq_none, absentCheck, unkeyedCheck, List.mem_cons, forall_eq_or_imp, Bool.not_eq_false'] at hc
  obtain ⟨hp, -, hk, -⟩ := hc
  exact (keyedOk_keptByWork s.par k 0 0).deriveNext ⟨rfl, hs.keyedOk hp hk⟩

theorem execDestroy_slotOk (hs : (s.slot k).Ok s.par) (h : execDestroy k s = .next t) : (t.slot k).Ok s.par := by
  refine command_slotOk hs h fun _ => ?_
  rw [State.succeed_eq, State.slot_conclude]
  split
  · rw [State.slot_setSlot_same]; exact Slot.zero_ok _
  · exact hs

/-! #### The modes -/

/-- A mode command past its first checks has a keyed slot. -/
theorem keyedOk_of_modeChecks {n : Nat} (hs : (s.slot k).Ok s.par) (hc : firstStop (modeChecks s k n) = none) :
    (s.slot k).KeyedOk s.par := by
  simp only [modeChecks, firstStop_eq_none, absentCheck, unkeyedCheck, List.mem_cons, List.not_mem_nil, or_false,
    forall_eq_or_imp, forall_eq, Bool.not_eq_false'] at hc
  obtain ⟨hp, -, -, hk⟩ := hc
  exact hs.keyedOk hp hk

theorem State.loadIv_keyedOk (h : (s.slot k).KeyedOk s.par) {b : List Byte} (hb : b.length = (s.slot k).bs) :
    (s.loadIv k b).par = s.par ∧ ((s.loadIv k b).slot k).KeyedOk s.par := by
  rw [State.loadIv, State.slot_setSlot_same]
  exact ⟨rfl, h.loadIv hb⟩

theorem ecbCommand_slotOk {dir : Direction} (hs : (s.slot k).Ok s.par) (h : ecbCommand dir k s = .next t) :
    (t.slot k).Ok s.par := by
  refine command_slotOk hs h fun hc => finishJob_slotOk ?_
  simp only [firstStop_append_eq_none] at hc
  obtain ⟨⟨⟨hm, -⟩, -⟩, -⟩ := hc
  exact wholeBlocks_endsIn (fun i j hj hr => (keyedOk_keptByWork s.par k _ _).ecbBody hj hr)
    ⟨rfl, keyedOk_of_modeChecks hs hm⟩

theorem cbcCommand_slotOk {body : SlotId → Nat → Nat → Nat → Nat → Job → Except Job Job}
    (hbody : ∀ {P : State → Prop} {dst n src a bs i : Nat} {j : Job}, KeptByWork k dst n P → P j.st →
      (0 < bs → dst ≤ a + i * bs ∧ a + i * bs + bs ≤ dst + n) → endsIn P (body k src a bs i j))
    (hs : (s.slot k).Ok s.par) (h : cbcCommand body k s = .next t) : (t.slot k).Ok s.par := by
  refine command_slotOk hs h fun hc => finishJob_slotOk ?_
  simp only [firstStop_append_eq_none] at hc
  obtain ⟨⟨⟨hm, -⟩, -⟩, -⟩ := hc
  exact wholeBlocks_endsIn (fun i j hj hr => hbody (keyedOk_keptByWork s.par k _ _) hj hr)
    (State.loadIv_keyedOk (keyedOk_of_modeChecks hs hm) (Memory.length_readBytes _ _ _))

theorem ctrCommand_slotOk {body : SlotId → Nat → Nat → Nat → Nat → Nat → Job → Except Job Job} {extra : List Check} {m : Nat}
    (hbody : ∀ {P : State → Prop} {dst n src a len bs i : Nat} {j : Job}, KeptByWork k dst n P → P j.st →
      (0 < min bs (len - i * bs) → dst ≤ a + i * bs ∧ a + i * bs + min bs (len - i * bs) ≤ dst + n) →
      endsIn P (body k src a len bs i j))
    (hs : (s.slot k).Ok s.par) (h : ctrCommand body extra m k s = .next t) : (t.slot k).Ok s.par := by
  refine command_slotOk hs h fun hc => finishJob_slotOk ?_
  simp only [firstStop_append_eq_none] at hc
  obtain ⟨⟨⟨⟨hm, -⟩, hiv⟩, -⟩, -⟩ := hc
  simp only [firstStop_eq_none, ctrIvCheck, List.mem_singleton, forall_eq, Bool.or_eq_false_iff, decide_eq_false_iff_not,
    not_lt] at hiv
  refine partialBlocks_endsIn _ (fun i j hj hr => hbody (keyedOk_keptByWork s.par k _ _) hj hr)
    (State.loadIv_keyedOk (keyedOk_of_modeChecks hs hm) ?_)
  simp only [firstCounter, State.load, List.length_append, Memory.length_readBytes, List.length_replicate]
  omega

theorem execCmac_slotOk (hs : (s.slot k).Ok s.par) (h : execCmac k s = .next t) : (t.slot k).Ok s.par := by
  refine command_slotOk hs h fun hc => finishJob_slotOk ?_
  simp only [firstStop_append_eq_none] at hc
  obtain ⟨⟨⟨hm, -⟩, -⟩, -⟩ := hc
  exact (keyedOk_keptByWork s.par k _ _).cmacJob ⟨rfl, keyedOk_of_modeChecks hs hm⟩

end

/-! #### Every host command and every step of the host -/

/-- The slot a host command names is well formed afterwards. -/
theorem exec_namedSlot_ok {i : Instr} {k : SlotId} {s t : State} (hk : i.namedSlot = some k) (hz : KeySizesOk s.par)
    (hs : (s.slot k).Ok s.par) (h : exec i s = .next t) : (t.slot k).Ok s.par := by
  cases i <;> cases hk
  case create n => exact execCreate_slotOk hs h
  case bind kind => exact execBind_slotOk hs h
  case setKey => exact execSetKey_slotOk hz hs h
  case setKeyRandom n => exact execSetKeyRandom_slotOk hz hs h
  case deriveNext => exact execDeriveNext_slotOk hs h
  case destroy => exact execDestroy_slotOk hs h
  case ecbEnc => exact ecbCommand_slotOk hs h
  case ecbDec => exact ecbCommand_slotOk hs h
  case cbcEnc => exact cbcCommand_slotOk (fun hP hj hr => hP.cbcEncBody hj hr) hs h
  case cbcDec => exact cbcCommand_slotOk (fun hP hj hr => hP.cbcDecBody hj hr) hs h
  case ctr => exact ctrCommand_slotOk (fun hP hj hr => hP.ctrBody hj hr) hs h
  case ctrAcpkm => exact ctrCommand_slotOk (fun hP hj hr => hP.acpkmBody hj hr) hs h
  case cmac => exact execCmac_slotOk hs h

/-- The slot invariant speaks of the parameters, the agenda and the slots alone. -/
theorem State.SlotsOk.of_eq {s t : State} (h : s.SlotsOk) (hpar : t.par = s.par) (hagenda : t.agenda = s.agenda)
    (hslot : ∀ k, t.slot k = s.slot k) : t.SlotsOk := by
  simpa only [State.SlotsOk, hpar, hagenda, hslot] using h

theorem exec_host_slotsOk {i : Instr} {s t : State} (hi : i.hostIssuable = true) (hs : s.SlotsOk)
    (h : exec i s = .next t) : t.SlotsOk := by
  obtain ⟨⟨-, -, hpar, hagenda⟩, hother, -⟩ := commandFrame i s t hi h
  obtain ⟨hz, hhost, hok⟩ := hs
  refine ⟨hpar ▸ hz, hagenda ▸ hhost, fun k => ?_⟩
  rw [hpar]
  by_cases hk : i.namedSlot = some k
  · exact exec_namedSlot_ok hk hz (hok k) h
  · rw [hother k hk]
    exact hok k

theorem runEvent_slotsOk {e : Event} {s t : State} (he : e.byHost = true) (hs : s.SlotsOk) (h : runEvent e s = .next t) :
    t.SlotsOk := by
  cases e with
  | writeP i v => cases h; exact hs.of_eq rfl rfl fun _ => rfl
  | writeMem addr bytes =>
    simp only [runEvent, hostWriteMem] at h
    split at h <;> cases h
    exact hs.of_eq rfl rfl fun _ => rfl
  | issue c =>
    cases c with
    | command w =>
      have hcmd : ({ s with cmd := w } : State).SlotsOk := hs.of_eq rfl rfl fun _ => rfl
      obtain ⟨i, hi, h⟩ | rfl := issueCommand_cases h
      · exact exec_host_slotsOk hi hcmd h
      · unfold State.endInvalid
        split <;> exact hcmd.of_eq rfl rfl fun _ => rfl
    | entry e => cases he
    | micro e => cases he
  | latch q => cases he
  | reset cells tables =>
    cases h
    refine ⟨hs.1, hs.2.1, fun k => ?_⟩
    rw [State.afterReset_slot]
    exact Slot.zero_ok _

/-- Settles O58: a host event leaves every slot but the one it names as it was, and that one well formed. -/
theorem slotInvariant : Obligations.SlotInvariant := by
  intro s t hs h
  cases ha : s.agenda with
  | nil => rw [step_idle ha] at h; cases h; exact hs
  | cons e rest =>
    rw [step_cons ha] at h
    obtain ⟨hz, hhost, hok⟩ := hs
    simp only [ha, List.all_cons, Bool.and_eq_true] at hhost
    exact runEvent_slotsOk (s := { s with agenda := rest }) hhost.1 ⟨hz, hhost.2, hok⟩ h

end Sys2Proof.Machine
end

section
/-! ### Host writes, BIND, INIT_TABLES -/

namespace Sys2Proof.Machine

/-! #### Host writes (10_state.md R21, 20_memory.md R60) -/

/-- Settles O6, by the laws of a vector and of a stored byte string. -/
theorem hostWrites : Obligations.HostWrites := by
  refine ⟨fun s i v rest ha => ⟨_, step_cons ha, rfl, fun j => ?_⟩,
    fun s addr bytes rest ha hr => ⟨_, (step_cons ha).trans (if_neg hr.not_gt), rfl, fun a => ?_⟩,
    fun s addr bytes rest ha hr => (step_cons ha).trans (if_pos hr)⟩
  · simp only [State.hostWriteP_p, Fin.getElem_fin, Vector.getElem_set, Fin.ext_iff, eq_comm]
  · simp only [State.byte, State.store_mem, List.take_length, Memory.read_writeBytes]
    split
    · next h => rw [List.getD_eq_getElem _ _ (by omega)]
    · rfl

/-! #### Past the checks -/

theorem verdictOf_eq_go {o : Option Stop} : verdictOf o = .go ↔ o = none := by
  cases o with
  | none => exact ⟨fun _ => rfl, fun _ => rfl⟩
  | some stop => cases stop <;> exact ⟨nofun, nofun⟩

/-- The success of a command that has written its slot, the slot present. -/
theorem State.succeed_setSlot {s : State} {k : SlotId} {sl : Slot} (hp : sl.present = true) (n : Nat) :
    (s.setSlot k sl).succeed (some k) n n = s.done k sl s.mem n := by
  have hleft : (s.setSlot k sl).resourceLeft (some k) = sl.resourceCounter := by
    simp [State.resourceLeft, hp]
  simp only [State.succeed_eq, State.conclude, hleft]
  rfl

/-! #### BIND (41_key_object.md R132) -/

theorem execBind_passes {s : State} {k : SlotId} {kind : BindKind} (hf : s.fault = false)
    (hv : keyVerdict (.bind k kind) k s = .go) :
    execBind k kind s = .next ((s.setSlot k { s.slot k with kind := kindOfBind kind }).succeed (some k) 0 0) := by
  have hsize : (s.slot k).blockSize ≠ bindBlockSize kind ↔
      (kind = .b8 ∧ (s.slot k).blockSize ≠ 8) ∨ (kind ≠ .b8 ∧ (s.slot k).blockSize ≠ 16) := by
    cases kind <;> simp [bindBlockSize]
  refine command_passes hf (verdictOf_eq_go.mp (Eq.trans (Eq.symm ?_) hv))
  simp only [keyVerdict, absentCheck, verdictOf_firstStop_cons, Bool.and_eq_true, Bool.not_eq_true', decide_eq_true_eq,
    Option.isNone_iff_eq_none, hsize]
  rfl

theorem present_of_bindVerdict {s : State} {k : SlotId} {kind : BindKind} (hv : keyVerdict (.bind k kind) k s = .go) :
    (s.slot k).present = true := by
  cases hp : (s.slot k).present with
  | true => rfl
  | false => simp [keyVerdict, hp] at hv

/-- Settles O29: past the checks the kind is written; a bound slot fails the second check. -/
theorem bindResult : Obligations.BindResult := by
  refine ⟨fun s k kind hf hv => ?_, fun s k kind hf hp hb => ?_⟩
  · refine (execBind_passes hf hv).trans ?_
    rw [State.succeed_setSlot (by exact present_of_bindVerdict hv)]
  · have hstop : exec (.bind k kind) s = s.stopAt (some k) (.error .wrongBlockCipher 0) :=
      command_stops hf (by simp [firstStop_cons, absentCheck, hp, hb])
    rw [hstop, State.stopAt, State.raise_eq, State.conclude, State.resourceLeft_present s hp]
    rfl

/-! #### INIT_TABLES (40_table_builder.md R117) -/

theorem execInitTables_passes {s : State} (hf : s.fault = false) (hv : builderVerdict .initTables s = .go) :
    execInitTables s =
      .next (s.installTables (Matrix16.ofList (s.load s.buf0.addr 256)) (ByteTable.ofList (s.load s.buf1.addr 256))) := by
  refine command_passes hf (verdictOf_eq_go.mp (Eq.trans (Eq.symm ?_) hv))
  simp only [builderVerdict, List.cons_append, List.nil_append, verdictOf_firstStop_cons, verdictOf_contractChecks,
    Bool.or_eq_true, decide_eq_true_eq, Buffer.missing_eq_true]
  rfl

/-- A byte of a load. -/
theorem State.load_getD (s : State) {addr n i : Nat} (h : i < n) : (s.load addr n).getD i 0 = s.byte (addr + i) := by
  rw [List.getD_eq_getElem _ _ (by simpa [State.load] using h)]
  simp [State.load, Memory.readBytes]

/-- A matrix whose entries stand row by row in memory is the one loaded (R104). -/
theorem Matrix16.ofList_load {s : State} {addr : Nat} {m : Matrix16}
    (hm : ∀ i j : Fin 16, (m[i])[j] = s.byte (addr + (16 * i.val + j.val))) : Matrix16.ofList (s.load addr 256) = m :=
  Matrix16.ext fun i j => by
    rw [hm i j, ← s.load_getD (n := 256) (by omega)]
    simp [Matrix16.ofList]

/-- A table whose entries stand in memory is the one loaded. -/
theorem ByteTable.ofList_load {s : State} {addr : Nat} {p : ByteTable} (hp : ∀ x : Byte, lookup p x = s.byte (addr + x.toNat)) :
    ByteTable.ofList (s.load addr 256) = p := by
  refine Vector.ext fun i hi => ?_
  have hx := hp (BitVec.ofNat 8 i)
  simp only [lookup, BitVec.toNat_ofNat, Nat.reducePow, Nat.mod_eq_of_lt hi] at hx
  rw [hx, ← s.load_getD hi]
  simp [ByteTable.ofList]

/-- Settles O24: the three ends of installing the matrix and the table read. -/
theorem initTablesResult : Obligations.InitTablesResult := by
  intro s m p hf hpoly hv hm hp
  have hexec : exec .initTables s = .next (s.installTables m p) := by
    refine (execInitTables_passes hf hv).trans ?_
    rw [Matrix16.ofList_load hm, ByteTable.ofList_load hp]
  refine ⟨fun hinv hperm => ?_, fun hsing => ?_, fun hinv hperm => ?_⟩
  · obtain ⟨minv, tinv, hi, hcons⟩ := State.installTables_ok hpoly hinv hperm
    refine ⟨_, hexec.trans (congrArg _ hi), rfl, rfl, rfl, rfl, hcons, fun i j x => ?_⟩
    calc (lookup (roundTable s.par.profile.poly m p)[j] x)[i]
        = gfMul s.par.profile.poly (lookup p x) (m[i])[j] := by
          rw [lookup_roundTable, scaleVec_get]
          simp [columnOf]
      _ = gfMul s.par.profile.poly (m[i])[j] (lookup p x) := gfMul_comm hpoly.1 _ _
  · exact hexec.trans (congrArg _ (State.installTables_singular hpoly hsing))
  · exact hexec.trans (congrArg _ (State.installTables_not_permutation hpoly hinv hperm))

end Sys2Proof.Machine
end

section
/-! ### SCHEDULE_KEYS and ERASE_KEYS (42_cipher_core.md R160, R161), and operations on unspecified tables (10_state.md R45) -/

namespace Sys2Proof.Machine

/-! #### Scheduling on a slot -/

/-- The round keys that a profile's expansion gives for `nr` rounds (R160). -/
def expandedKeys (prf : Profile) (tbl : TableSet) (key : List Byte) (nr : Nat) : List Vec16 :=
  match prf.expand with
  | .aes => expandAes prf tbl key nr
  | .gost => expandGost prf tbl key

theorem placeKeys_get (ks : List Vec16) (n : Nat) (i : Fin 15) :
    (placeKeys ks n)[i] = if i.val < n then ks.getD i.val Vec16.zero else Vec16.zero := by
  simp [placeKeys]

section
variable {sl : Slot}

theorem Slot.scheduleKeys_b16 (h : sl.kind = .b16t ∨ sl.kind = .b16p) (par : Params) (tbl : TableSet) :
    Slot.scheduleKeys par tbl sl =
      { sl with
        rk := placeKeys (expandedKeys par.profile tbl sl.keyBytes (roundsOf par.profile sl.keyLen.toNat))
          (roundsOf par.profile sl.keyLen.toNat + 1)
        nrk := BitVec.ofNat 4 (roundsOf par.profile sl.keyLen.toNat + 1) } := by
  obtain h | h := h <;> simp only [Slot.scheduleKeys, h] <;> rfl

theorem Slot.scheduleKeys_b8 (h : sl.kind = .b8) (par : Params) (tbl : TableSet) :
    Slot.scheduleKeys par tbl sl =
      { sl with rk := Config.alg8Schedule sl.keyBytes, nrk := Config.alg8Nrk sl.keyBytes } := by
  simp only [Slot.scheduleKeys, h]

end

/-! #### The entry SCHEDULE_KEYS -/

section
variable {s : State}

theorem execScheduleKeys_unbound (h : (s.slot s.seq.slot).kind = .unbound) :
    execScheduleKeys s = .fault .noOperationBound := by
  simp only [execScheduleKeys, h, if_true]

theorem execScheduleKeys_bad_length (hb : (s.slot s.seq.slot).kind ≠ .unbound)
    (h : ¬ AcceptedKeyLen s.par (s.slot s.seq.slot).kind (s.slot s.seq.slot).keyLen.toNat) :
    execScheduleKeys s = .fault .keyLengthNotValidated := by
  rw [← acceptsKeyLen_eq_true, Bool.not_eq_true] at h
  simp only [execScheduleKeys, hb, h, if_false, if_true]

/-- On tables that it may read the slot is scheduled. -/
theorem execScheduleKeys_scheduled (hb : (s.slot s.seq.slot).kind ≠ .unbound)
    (h : AcceptedKeyLen s.par (s.slot s.seq.slot).kind (s.slot s.seq.slot).keyLen.toNat)
    (ht : (s.slot s.seq.slot).kind = .b8 ∨ s.tbl.valid = true) :
    execScheduleKeys s = .next (s.setSlot s.seq.slot (Slot.scheduleKeys s.par s.tbl (s.slot s.seq.slot))) := by
  rw [← acceptsKeyLen_eq_true] at h
  simp only [execScheduleKeys, hb, h, ht, if_false, if_true, Bool.true_eq_false]

/-- On unspecified tables the round keys of a 16-byte kind are a free value. -/
theorem execScheduleKeys_unspecified (hk : (s.slot s.seq.slot).kind = .b16t ∨ (s.slot s.seq.slot).kind = .b16p)
    (h : AcceptedKeyLen s.par (s.slot s.seq.slot).kind (s.slot s.seq.slot).keyLen.toNat) (ht : s.tbl.valid = false) :
    execScheduleKeys s =
      .next (State.setSlot { s with draws := s.draws + 1 } s.seq.slot
        { s.slot s.seq.slot with
          rk := placeKeys (Config.unspecifiedKeys s.draws).toList
            (roundsOf s.par.profile (s.slot s.seq.slot).keyLen.toNat + 1)
          nrk := BitVec.ofNat 4 (roundsOf s.par.profile (s.slot s.seq.slot).keyLen.toNat + 1) }) := by
  rw [← acceptsKeyLen_eq_true] at h
  have hb : (s.slot s.seq.slot).kind ≠ .unbound := by obtain hk | hk := hk <;> simp [hk]
  have h8 : ¬ ((s.slot s.seq.slot).kind = .b8 ∨ s.tbl.valid = true) := by obtain hk | hk := hk <;> simp [hk, ht]
  simp only [execScheduleKeys, hb, h, h8, if_false, Bool.true_eq_false, Slot.scheduleKeys_b16 hk]
  rfl

end

/-- Settles O50: the schedule of each kind, the two stops, and that erasing twice is erasing once. -/
theorem keyScheduleEntries : Obligations.KeyScheduleEntries := by
  refine ⟨fun s hk ht hacc => ?_, fun s hk hacc => ?_, fun s => execScheduleKeys_unbound,
    fun s => execScheduleKeys_bad_length, fun s => ⟨_, rfl, rfl, ?_⟩⟩
  · have hb : (s.slot s.seq.slot).kind ≠ .unbound := by obtain hk | hk := hk <;> simp [hk]
    have hexec := execScheduleKeys_scheduled hb hacc (.inr ht)
    rw [Slot.scheduleKeys_b16 hk] at hexec
    refine ⟨_, _, rfl, hexec, fun i hi => ?_, fun i hi => ?_⟩
    · rw [placeKeys_get, if_pos (by omega)]
      rfl
    · rw [placeKeys_get, if_neg (by omega)]
  · have hexec := execScheduleKeys_scheduled (s := s) (by simp [hk]) (hk ▸ hacc) (.inl hk)
    rw [Slot.scheduleKeys_b8 hk] at hexec
    exact hexec
  · simp [exec, execEraseKeys, Slot.eraseKeys]

/-! #### Operations that would read unspecified tables -/

theorem blockEntry_unspecified {s : State} {dir : Direction} (ht : s.tbl.valid = false)
    (hk : (s.slot s.seq.slot).kind = .b16t ∨ (s.slot s.seq.slot).kind = .b16p)
    (hkey : (s.slot s.seq.slot).keySet = true) :
    blockEntry dir s = .next { s.setV (Config.unspecifiedVec s.draws) with draws := s.draws + 1 } := by
  obtain hk | hk := hk <;> simp [blockEntry, hk, hkey, ht]

/-- A result that is not read off the table arrays is the same for all of them. -/
theorem State.setTableV_unspecified {s : State} {tables : TableSet} (hs : s.tbl.valid = false)
    (ht : tables.valid = false) (v w : Vec16) :
    ({ s with tbl := tables } : State).setTableV v = { s.setTableV w with tbl := tables } := by
  rw [State.setTableV_of_invalid hs, State.setTableV_of_invalid ht]
  rfl

section
variable {s : State} {tables : TableSet}

theorem blockEntry_withTables (hs : s.tbl.valid = false) (ht : tables.valid = false) (dir : Direction) :
    blockEntry dir { s with tbl := tables } = withTables tables (blockEntry dir s) := by
  have hslot : ({ s with tbl := tables } : State).slot s.seq.slot = s.slot s.seq.slot := rfl
  cases hk : (s.slot s.seq.slot).kind with
  | unbound => rw [blockEntry_unbound hk, blockEntry_unbound (hslot ▸ hk)]; rfl
  | b8 =>
    by_cases hkey : (s.slot s.seq.slot).keySet = true
    · cases dir <;> simp only [blockEntry, hslot, hk, hkey, blockOp, encryptBlock, decryptBlock] <;> rfl
    · rw [Bool.not_eq_true] at hkey
      rw [blockEntry_unkeyed (by simp [hk]) hkey, blockEntry_unkeyed (by simp [hslot, hk]) (hslot ▸ hkey)]
      rfl
  | b16t | b16p =>
    by_cases hkey : (s.slot s.seq.slot).keySet = true
    · rw [blockEntry_unspecified hs (by simp [hk]) hkey, blockEntry_unspecified ht (by simp [hslot, hk]) (hslot ▸ hkey)]
      rfl
    · rw [Bool.not_eq_true] at hkey
      rw [blockEntry_unkeyed (by simp [hk]) hkey, blockEntry_unkeyed (by simp [hslot, hk]) (hslot ▸ hkey)]
      rfl

theorem execScheduleKeys_withTables (hs : s.tbl.valid = false) (ht : tables.valid = false) :
    execScheduleKeys { s with tbl := tables } = withTables tables (execScheduleKeys s) := by
  have hslot : ({ s with tbl := tables } : State).slot s.seq.slot = s.slot s.seq.slot := rfl
  by_cases hb : (s.slot s.seq.slot).kind = .unbound
  · rw [execScheduleKeys_unbound hb, execScheduleKeys_unbound (hslot ▸ hb)]; rfl
  by_cases hacc : AcceptedKeyLen s.par (s.slot s.seq.slot).kind (s.slot s.seq.slot).keyLen.toNat
  · cases hk : (s.slot s.seq.slot).kind with
    | unbound => exact absurd hk hb
    | b8 =>
      rw [execScheduleKeys_scheduled hb hacc (.inl hk),
        execScheduleKeys_scheduled (s := { s with tbl := tables }) hb hacc (.inl hk), hslot, Slot.scheduleKeys_b8 hk,
        Slot.scheduleKeys_b8 hk]
      rfl
    | b16t | b16p =>
      rw [execScheduleKeys_unspecified (by simp [hk]) hacc hs,
        execScheduleKeys_unspecified (s := { s with tbl := tables }) (by simp [hslot, hk]) hacc ht]
      rfl
  · rw [execScheduleKeys_bad_length hb hacc, execScheduleKeys_bad_length (s := { s with tbl := tables }) hb hacc]
    rfl

/-- While both table sets are invalid no internal operation tells them apart. -/
theorem exec_withTables {i : Instr} (hi : i.hostIssuable = false) (hs : s.tbl.valid = false) (ht : tables.valid = false) :
    exec i { s with tbl := tables } = withTables tables (exec i s) := by
  have hfree : ∀ v w, (.next (({ s with tbl := tables } : State).setTableV v) : Host.Outcome State Fault Refusal) =
      withTables tables (.next (s.setTableV w)) := fun v w => congrArg _ (State.setTableV_unspecified hs ht v w)
  cases i with
  | encryptBlock => exact blockEntry_withTables hs ht .encrypt
  | decryptBlock => exact blockEntry_withTables hs ht .decrypt
  | scheduleKeys => exact execScheduleKeys_withTables hs ht
  | eraseKeys | addRoundKey | lfsrStep => rfl
  | subBytes | linear | invSubBytes | invLinear | roundT | invRoundT => exact hfree _ _
  | linearLast =>
    simp only [exec, execLinearLast]
    split
    · exact hfree _ _
    · next pi h => rw [linearLast_bytePerm h, linearLast_bytePerm h]; rfl
  | invLinearLast =>
    simp only [exec, execInvLinearLast]
    split
    · exact hfree _ _
    · next pi h => rw [invLinearLast_bytePerm h, invLinearLast_bytePerm h]; rfl
  | shiftRows | mixColumns | invShiftRows | invMixColumns =>
    simp only [exec, execShiftRows, execMixColumns, execInvShiftRows, execInvMixColumns, aesStage]
    split <;> rfl
  | _ => cases hi

/-- A stage or block operation that would read the arrays takes the free value of this draw. -/
theorem exec_unspecified {i : Instr} (hs : s.tbl.valid = false)
    (hi : i ∈ [Instr.subBytes, .linear, .invSubBytes, .invLinear, .roundT, .invRoundT] ∨
      (s.par.profile.lastLin = .same ∧ i ∈ [Instr.linearLast, .invLinearLast]) ∨
      (((s.slot s.seq.slot).kind = .b16t ∨ (s.slot s.seq.slot).kind = .b16p) ∧ (s.slot s.seq.slot).keySet = true ∧
        i ∈ [Instr.encryptBlock, .decryptBlock])) :
    exec i s = .next { s.setV (Config.unspecifiedVec s.draws) with draws := s.draws + 1 } := by
  have hfree : ∀ v, (.next (s.setTableV v) : Host.Outcome State Fault Refusal) =
      .next { s.setV (Config.unspecifiedVec s.draws) with draws := s.draws + 1 } := fun v =>
    congrArg _ (State.setTableV_of_invalid hs v)
  obtain hi | ⟨hsame, hi⟩ | ⟨hk, hkey, hi⟩ := hi <;>
    simp only [List.mem_cons, List.not_mem_nil, or_false] at hi
  · obtain rfl | rfl | rfl | rfl | rfl | rfl := hi <;> exact hfree _
  · obtain rfl | rfl := hi
    · simp only [exec, execLinearLast, hsame]; exact hfree _
    · simp only [exec, execInvLinearLast, hsame]; exact hfree _
  · obtain rfl | rfl := hi <;> exact blockEntry_unspecified hs hk hkey

end

/-- Settles O53: the free values, and that no outcome depends on what the arrays hold. -/
theorem unspecifiedTables : Obligations.UnspecifiedTables := by
  refine ⟨fun s i hs hi => exec_unspecified hs hi, fun s nr hs hk hacc hnr => ?_,
    fun s tables i hi hs ht => exec_withTables hi hs ht⟩
  subst hnr
  have hkeys : placeKeys (Config.unspecifiedKeys s.draws).toList
      (roundsOf s.par.profile (s.slot s.seq.slot).keyLen.toNat + 1) = Vector.ofFn fun i : Fin 15 =>
        if i.val ≤ roundsOf s.par.profile (s.slot s.seq.slot).keyLen.toNat then (Config.unspecifiedKeys s.draws)[i]
        else Vec16.zero :=
    Vector.ext fun i _ => by simp [placeKeys]
  refine (execScheduleKeys_unspecified hk hacc hs).trans ?_
  rw [hkeys]

end Sys2Proof.Machine
end

section
/-! ### Illegal command words (30_encoding.md R81, R85, R90) -/

namespace Sys2Proof

/-! #### A word and its fields -/

/-- Two words with the same fields are the same word (R81). -/
theorem word_eq_iff {a b : BitVec 32} :
    a = b ↔ fieldOp a = fieldOp b ∧ fieldSlot a = fieldSlot b ∧ fieldSel a = fieldSel b ∧ fieldImm a = fieldImm b := by
  refine ⟨fun h => h ▸ ⟨rfl, rfl, rfl, rfl⟩, fun ⟨hop, hslot, hsel, himm⟩ => BitVec.eq_of_toNat_eq ?_⟩
  have h1 := congrArg BitVec.toNat hop
  have h2 := congrArg BitVec.toNat hslot
  have h3 := congrArg BitVec.toNat hsel
  have h4 := congrArg BitVec.toNat himm
  simp only [fieldOp, fieldSlot, fieldSel, fieldImm, BitVec.extractLsb'_toNat, Nat.shiftRight_eq_div_pow] at h1 h2 h3 h4
  omega

/-- A masked comparison, field by field. -/
theorem masked_eq_iff {w m p : BitVec 32} : w &&& m = p ↔
    fieldOp w &&& fieldOp m = fieldOp p ∧ fieldSlot w &&& fieldSlot m = fieldSlot p ∧
      fieldSel w &&& fieldSel m = fieldSel p ∧ fieldImm w &&& fieldImm m = fieldImm p := by
  rw [word_eq_iff]
  simp only [fieldOp, fieldSlot, fieldSel, fieldImm, BitVec.extractLsb'_and]

/-! #### The fields of a number, and full masks -/

section
variable (n : Nat)

theorem fieldOp_ofNat : fieldOp (BitVec.ofNat 32 n) = BitVec.ofNat 8 n := by
  apply BitVec.eq_of_toNat_eq
  simp only [fieldOp, BitVec.extractLsb'_toNat, BitVec.toNat_ofNat, Nat.shiftRight_eq_div_pow]
  omega

theorem fieldSlot_ofNat : fieldSlot (BitVec.ofNat 32 n) = BitVec.ofNat 4 (n / 2 ^ 8) := by
  apply BitVec.eq_of_toNat_eq
  simp only [fieldSlot, BitVec.extractLsb'_toNat, BitVec.toNat_ofNat, Nat.shiftRight_eq_div_pow]
  omega

theorem fieldSel_ofNat : fieldSel (BitVec.ofNat 32 n) = BitVec.ofNat 4 (n / 2 ^ 12) := by
  apply BitVec.eq_of_toNat_eq
  simp only [fieldSel, BitVec.extractLsb'_toNat, BitVec.toNat_ofNat, Nat.shiftRight_eq_div_pow]
  omega

theorem fieldImm_ofNat : fieldImm (BitVec.ofNat 32 n) = BitVec.ofNat 16 (n / 2 ^ 16) := by
  apply BitVec.eq_of_toNat_eq
  simp only [fieldImm, BitVec.extractLsb'_toNat, BitVec.toNat_ofNat, Nat.shiftRight_eq_div_pow]
  omega

end

theorem and_full_four (x : BitVec 4) : x &&& 0xF#4 = x := BitVec.and_allOnes
theorem and_full_eight (x : BitVec 8) : x &&& 0xFF#8 = x := BitVec.and_allOnes
theorem and_full_sixteen (x : BitVec 16) : x &&& 0xFFFF#16 = x := BitVec.and_allOnes

/-! #### What the decoder refuses -/

theorem whenZero_refuses {zero : Bool} {i : Instr} : (∀ j, whenZero zero i ≠ .ok j) ↔ zero = false := by
  cases zero with
  | false => exact ⟨fun _ => rfl, fun _ _ => nofun⟩
  | true => exact ⟨fun h => absurd rfl (h i), nofun⟩

theorem variantOf_eq_none {sel : BitVec 4} : variantOf sel = none ↔ 1 < sel.toNat := by
  revert sel; decide

theorem bindKindOf_eq_none {sel : BitVec 4} : bindKindOf sel = none ↔ sel = 0 ∨ 3 < sel.toNat := by
  revert sel; decide

/-- A word whose `op` is none of the 18 values does not decode. -/
theorem decodeCommand_of_not_mem {w : BitVec 32} (h : fieldOp w ∉ hostOps) : decodeCommand w = .error .illegalOp := by
  unfold decodeCommand
  split
  case h_19 => rfl
  all_goals next hop => exact absurd (hop ▸ by decide) h

/-! #### Illegal words are those that do not decode, row by row -/

/-- The rows of R85 have the 18 values of `op`. -/
theorem exists_hostRow {op : BitVec 8} (h : op ∈ hostOps) : ∃ r ∈ hostRows, op = fieldOp r.pattern := by
  have hops : hostOps = hostRows.map fun r => fieldOp r.pattern := by decide
  rw [hops] at h
  obtain ⟨r, hr, rfl⟩ := List.mem_map.mp h
  exact ⟨r, hr, rfl⟩

/-- No two rows have one `op`. -/
theorem hostRow_unique : ∀ r ∈ hostRows, ∀ r' ∈ hostRows, fieldOp r.pattern = fieldOp r'.pattern → r = r' := by decide

section
variable {w : BitVec 32}

/-- Of a word with the `op` of a row, R90 asks for that row's zero fields and for a legal `sel`. -/
theorem illegalWord_iff_row {r : HostRow} (hr : r ∈ hostRows) (h : fieldOp w = fieldOp r.pattern) :
    IllegalWord w ↔ w &&& r.mask ≠ r.pattern ∨ (fieldOp w = 0x05#8 ∧ variantOf (fieldSel w) = none) ∨
      (fieldOp w = 0x11#8 ∧ bindKindOf (fieldSel w) = none) := by
  have hop : fieldOp w ∈ hostOps := by
    have hops : ∀ r ∈ hostRows, fieldOp r.pattern ∈ hostOps := by decide
    exact h ▸ hops r hr
  have hrow : (∃ r' ∈ hostRows, fieldOp w = fieldOp r'.pattern ∧ w &&& r'.mask ≠ r'.pattern) ↔ w &&& r.mask ≠ r.pattern := by
    refine ⟨fun ⟨r', hr', h', hne⟩ => ?_, fun hne => ⟨r, hr, h, hne⟩⟩
    rwa [← hostRow_unique r' hr' r hr (h'.symm.trans h)]
  rw [variantOf_eq_none, bindKindOf_eq_none, IllegalWord, hrow]
  simp [hop]

/-- `INIT_DEFAULT`: a slot or an immediate is set, or `sel` names no variant. -/
theorem illegalWord_iff_initDefault (h : fieldOp w = 0x05#8) : IllegalWord w ↔ ∀ i, decode (.command w) ≠ .ok i := by
  have hillegal : IllegalWord w ↔ (fieldSlot w = 0 → fieldImm w ≠ 0) ∨ variantOf (fieldSel w) = none := by
    rw [illegalWord_iff_row (r := ⟨0x00000005, 0xFFFF0FFF, [0, 1]⟩) (by decide) h]
    simp [h, masked_eq_iff, fieldOp_ofNat, fieldSlot_ofNat, fieldSel_ofNat, fieldImm_ofNat, and_full_four, and_full_eight,
      and_full_sixteen]
  rw [hillegal]
  cases hv : variantOf (fieldSel w) with
  | none => simp [decode, decodeCommand, h, hv]
  | some v => simp [decode, decodeCommand, h, hv, whenZero_refuses]

/-- `BIND`: an immediate is set, or `sel` names no kind. -/
theorem illegalWord_iff_bind (h : fieldOp w = 0x11#8) : IllegalWord w ↔ ∀ i, decode (.command w) ≠ .ok i := by
  have hillegal : IllegalWord w ↔ fieldImm w ≠ 0 ∨ bindKindOf (fieldSel w) = none := by
    rw [illegalWord_iff_row (r := ⟨0x00000011, 0xFFFF00FF, [1, 2, 3]⟩) (by decide) h]
    simp [h, masked_eq_iff, fieldOp_ofNat, fieldSlot_ofNat, fieldSel_ofNat, fieldImm_ofNat, and_full_eight,
      and_full_sixteen]
  rw [hillegal]
  cases hk : bindKindOf (fieldSel w) with
  | none => simp [decode, decodeCommand, h, hk]
  | some k => simp [decode, decodeCommand, h, hk, whenZero_refuses]

/-- Every other row has must-be-zero fields alone. -/
theorem illegalWord_iff_of_row {r : HostRow} (hr : r ∈ hostRows) (h : fieldOp w = fieldOp r.pattern)
    (h5 : fieldOp w ≠ 0x05#8) (h11 : fieldOp w ≠ 0x11#8) : IllegalWord w ↔ ∀ i, decode (.command w) ≠ .ok i := by
  rw [illegalWord_iff_row hr h]
  simp only [hostRows, List.cons_append, List.nil_append, List.mem_cons, List.not_mem_nil, or_false] at hr
  rcases hr with rfl | rfl | rfl | rfl | rfl | rfl | rfl | rfl | rfl | rfl | rfl | rfl | rfl | rfl | rfl | rfl | rfl | rfl
  case' inr.inr.inr.inr.inl => exact absurd h h5
  case' inr.inr.inr.inr.inr.inr.inl => exact absurd h h11
  all_goals
    simp only [BitVec.ofNat_eq_ofNat, fieldOp_ofNat] at h
    simp [h, masked_eq_iff, fieldOp_ofNat, fieldSlot_ofNat, fieldSel_ofNat, fieldImm_ofNat, and_full_four, and_full_eight,
      and_full_sixteen, decode, decodeCommand, whenZero_refuses]

/-- A word is illegal exactly when it does not decode (R90). -/
theorem illegalWord_iff (w : BitVec 32) : IllegalWord w ↔ ∀ i, decode (.command w) ≠ .ok i := by
  by_cases hop : fieldOp w ∈ hostOps
  · by_cases h5 : fieldOp w = 0x05#8
    · exact illegalWord_iff_initDefault h5
    by_cases h11 : fieldOp w = 0x11#8
    · exact illegalWord_iff_bind h11
    obtain ⟨r, hr, h⟩ := exists_hostRow hop
    exact illegalWord_iff_of_row hr h h5 h11
  · refine ⟨fun _ i hd => ?_, fun _ => .inl hop⟩
    have := (decodeCommand_of_not_mem hop).symm.trans hd
    cases this

end

namespace Machine

/-- The end of an illegal word on a machine without a fault. -/
theorem State.endInvalid_of_ok {s : State} (hf : s.fault = false) :
    s.endInvalid = { s with res := 0xFF, rDone := 0, rReq := 0 } := by
  simp only [State.endInvalid, hf]
  rfl

/-- Settles O3: the words that do not decode, and their end. -/
theorem illegalWordEnds : Obligations.IllegalWordEnds := by
  refine ⟨illegalWord_iff, fun s w rest ha hf hw => ?_⟩
  rw [step_cons ha]
  cases hd : decode (.command w) with
  | ok i => exact absurd hd ((illegalWord_iff w).mp hw i)
  | error e =>
    simp only [runEvent, issue, issueCommand, hd]
    exact congrArg _ (State.endInvalid_of_ok (s := { s with agenda := rest, cmd := w }) hf)

end Machine
end Sys2Proof
end

section
/-! ### No command shows a key, its tag or a left-over IV (10_state.md R32, R34)

Two runs of one command from states that look alike are compared step by step. A mode that chains reads the IV buffer, but only
after it has loaded an IV of its own, so that the IV buffers of its slot agree from there on. -/

namespace Sys2Proof.Machine

/-! #### Slots that look alike -/

/-- The fields of two slots that a host may learn of agree. -/
structure Slot.Alike (a b : Slot) : Prop where
  present : a.present = b.present
  blockSize : a.blockSize = b.blockSize
  kind : a.kind = b.kind
  keySet : a.keySet = b.keySet
  keyLen : a.keyLen = b.keyLen
  nrk : a.nrk = b.nrk
  rk : a.rk = b.rk
  resourceCounter : a.resourceCounter = b.resourceCounter

theorem Slot.visible_eq_iff {a b : Slot} : a.visible = b.visible ↔ a.Alike b := by
  simp only [Slot.visible, Slot.mk.injEq, and_true, true_and]
  exact ⟨fun ⟨h1, h2, h3, h4, h5, h6, h7, h8⟩ => ⟨h1, h2, h3, h4, h5, h6, h7, h8⟩,
    fun ⟨h1, h2, h3, h4, h5, h6, h7, h8⟩ => ⟨h1, h2, h3, h4, h5, h6, h7, h8⟩⟩

theorem Slot.Alike.bs {a b : Slot} (h : a.Alike b) : a.bs = b.bs := by rw [Slot.bs, Slot.bs, h.blockSize]

theorem Slot.Alike.derivationBlocks {a b : Slot} (h : a.Alike b) : a.derivationBlocks = b.derivationBlocks := by
  rw [Slot.derivationBlocks, Slot.derivationBlocks, h.keyLen, h.bs]

theorem Slot.Alike.setChain {a b : Slot} (h : a.Alike b) (c : List Byte) : (a.setChain c).Alike (b.setChain c) := by
  obtain ⟨_, ha⟩ := Slot.setChain_eq a c
  obtain ⟨_, hb⟩ := Slot.setChain_eq b c
  rw [ha, hb]
  exact { h with }

theorem Slot.Alike.loadIv {a b : Slot} (h : a.Alike b) (c : List Byte) : (a.loadIv c).Alike (b.loadIv c) := by
  obtain ⟨_, ha⟩ := Slot.loadIv_eq a c
  obtain ⟨_, hb⟩ := Slot.loadIv_eq b c
  rw [ha, hb]
  exact { h with }

/-- The round keys of an installed key do not depend on the key before it. -/
theorem Slot.Alike.installKey {a b : Slot} (h : a.Alike b) (par : Params) (tbl : TableSet) (kb : List Byte) :
    (Slot.installKey par tbl a kb).Alike (Slot.installKey par tbl b kb) := by
  obtain ⟨h1, h2, h3, h4, h5, h6, h7, h8⟩ := h
  cases hk : b.kind <;> rw [hk] at h3 <;>
    constructor <;> simp only [Slot.installKey, Slot.scheduleKeys, Slot.eraseKeys, Slot.keyBytes, *]

/-! #### States that look alike -/

section
variable {s s' : State} {k : SlotId}

theorem State.slot_visible (s : State) (k : SlotId) : s.visible.slot k = (s.slot k).visible := by
  simp [State.visible, State.slot]

theorem State.slot_alike (h : s.visible = s'.visible) (k : SlotId) : (s.slot k).Alike (s'.slot k) := by
  rw [← Slot.visible_eq_iff, ← State.slot_visible, h, State.slot_visible]

/-- States that look alike differ in their slots alone. -/
theorem State.exists_slots_of_visible (h : s.visible = s'.visible) : ∃ slots, s' = { s with slots := slots } := by
  refine ⟨s'.slots, ?_⟩
  simp only [State.visible, State.mk.injEq] at h
  obtain ⟨hp, hcmd, hres, hdone, hreq, hleft, hf, hc, -, htbl, hmem, hpar, hd, hseq, ha⟩ := h
  rw [hp, hcmd, hres, hdone, hreq, hleft, hf, hc, htbl, hmem, hpar, hd, hseq, ha]

theorem State.par_of_visible (h : s.visible = s'.visible) : s.par = s'.par := by
  obtain ⟨slots, rfl⟩ := State.exists_slots_of_visible h
  rfl

theorem State.tbl_of_visible (h : s.visible = s'.visible) : s.tbl = s'.tbl := by
  obtain ⟨slots, rfl⟩ := State.exists_slots_of_visible h
  rfl

theorem State.fault_of_visible (h : s.visible = s'.visible) : s.fault = s'.fault := by
  obtain ⟨slots, rfl⟩ := State.exists_slots_of_visible h
  rfl

theorem State.load_of_visible (h : s.visible = s'.visible) (addr n : Nat) : s.load addr n = s'.load addr n := by
  obtain ⟨slots, rfl⟩ := State.exists_slots_of_visible h
  rfl

/-! #### Updates and what they show -/

theorem State.visible_store (s : State) (addr n : Nat) (v : List Byte) :
    (s.store addr n v).visible = s.visible.store addr n v := by
  simp only [State.visible, State.store, State.slot]

theorem State.visible_breach (s : State) (c : FaultCause) : (s.breach c).visible = s.visible.breach c := by
  simp only [State.visible, State.breach, State.slot]

theorem State.visible_endFaulted (s : State) : s.endFaulted.visible = s.visible.endFaulted := by
  simp only [State.visible, State.endFaulted, State.slot]

theorem State.visible_setSlot (s : State) (k : SlotId) (sl : Slot) :
    (s.setSlot k sl).visible = s.visible.setSlot k sl.visible := by
  simp only [State.visible, State.setSlot, State.mk.injEq, true_and, and_true]
  refine Vector.ext fun i hi => ?_
  simp only [Vector.getElem_ofFn, Vector.getElem_set, State.slot, Fin.getElem_fin, apply_ite Slot.visible]

theorem State.resourceLeft_visible (s : State) (o : Option SlotId) : s.visible.resourceLeft o = s.resourceLeft o := by
  cases o with
  | none => simp only [State.resourceLeft]
  | some k => simp only [State.resourceLeft, State.slot_visible, Slot.visible]

theorem State.visible_conclude (s : State) (o : Option SlotId) (err : Byte) (done req : Nat) :
    (s.conclude o err done req).visible = s.visible.conclude o err done req := by
  simp only [State.conclude, State.resourceLeft_visible]
  simp only [State.visible, State.slot]

theorem State.store_visible (h : s.visible = s'.visible) (addr n : Nat) (v : List Byte) :
    (s.store addr n v).visible = (s'.store addr n v).visible := by
  rw [State.visible_store, State.visible_store, h]

theorem State.setSlot_visible (h : s.visible = s'.visible) {sl sl' : Slot} (hsl : sl.Alike sl') :
    (s.setSlot k sl).visible = (s'.setSlot k sl').visible := by
  rw [State.visible_setSlot, State.visible_setSlot, h, Slot.visible_eq_iff.mpr hsl]

theorem State.conclude_visible (h : s.visible = s'.visible) (o : Option SlotId) (err : Byte) (done req : Nat) :
    (s.conclude o err done req).visible = (s'.conclude o err done req).visible := by
  rw [State.visible_conclude, State.visible_conclude, h]

/-! #### Commands on states that look alike -/

theorem stopAt_visible (h : s.visible = s'.visible) (o : Option SlotId) (stop : Stop) :
    visibleOutcome (s.stopAt o stop) = visibleOutcome (s'.stopAt o stop) := by
  cases stop with
  | error e req => exact congrArg Host.Outcome.next (State.conclude_visible h o _ _ _)
  | breach c =>
    have hb : (s.breach c).visible = (s'.breach c).visible := by rw [State.visible_breach, State.visible_breach, h]
    exact congrArg Host.Outcome.next hb
  | refuse r => rfl

/-- A command with the same checks and effects that look alike. -/
theorem command_visible (h : s.visible = s'.visible) {o : Option SlotId} {cs cs' : List Check} {e e' : State}
    (hcs : cs = cs') (he : e.visible = e'.visible) :
    visibleOutcome (command s o cs e) = visibleOutcome (command s' o cs' e') := by
  subst hcs
  have hf : s.fault = s'.fault := State.fault_of_visible h
  cases hs : s.fault with
  | true =>
    rw [command_faulted hs, command_faulted (hf ▸ hs)]
    have hb : s.endFaulted.visible = s'.endFaulted.visible := by
      rw [State.visible_endFaulted, State.visible_endFaulted, h]
    exact congrArg Host.Outcome.next hb
  | false =>
    cases hc : firstStop cs with
    | none => rw [command_passes hs hc, command_passes (hf ▸ hs) hc]; exact congrArg Host.Outcome.next he
    | some stop => rw [command_stops hs hc, command_stops (hf ▸ hs) hc]; exact stopAt_visible h o stop

end

/-! #### The block work on states that look alike -/

/-- Two jobs have done the same, and look alike; where the work reads the IV buffer of slot `k` (`iv`), it is the same too. -/
structure Job.Alike (iv : Prop) (k : SlotId) (j j' : Job) : Prop where
  done : j.done = j'.done
  visible : j.st.visible = j'.st.visible
  chain : iv → (j.st.slot k).ivBuffer = (j'.st.slot k).ivBuffer

/-- Two computations end the same way in jobs that are alike. -/
inductive SameEnd (iv : Prop) (k : SlotId) : Except Job Job → Except Job Job → Prop
  | ok {j j' : Job} : j.Alike iv k j' → SameEnd iv k (.ok j) (.ok j')
  | error {j j' : Job} : j.Alike iv k j' → SameEnd iv k (.error j) (.error j')

/-- So do two computations that answer bytes, and the bytes are the same. -/
inductive SameCall (iv : Prop) (k : SlotId) : Except Job (Job × List Byte) → Except Job (Job × List Byte) → Prop
  | ok {j j' : Job} (b : List Byte) : j.Alike iv k j' → SameCall iv k (.ok (j, b)) (.ok (j', b))
  | error {j j' : Job} : j.Alike iv k j' → SameCall iv k (.error j) (.error j')

section
variable {iv : Prop} {k : SlotId} {j j' : Job}

theorem Job.Alike.setSlot (h : j.Alike iv k j') {sl sl' : Slot} (hsl : sl.Alike sl')
    (hiv : iv → sl.ivBuffer = sl'.ivBuffer) {n n' : Nat} (hn : n = n') :
    Job.Alike iv k ⟨j.st.setSlot k sl, n⟩ ⟨j'.st.setSlot k sl', n'⟩ where
  done := hn
  visible := State.setSlot_visible h.visible hsl
  chain h' := by rw [State.slot_setSlot_same, State.slot_setSlot_same, hiv h']

theorem Job.Alike.store (h : j.Alike iv k j') (addr n : Nat) (v : List Byte) :
    Job.Alike iv k ⟨j.st.store addr n v, j.done⟩ ⟨j'.st.store addr n v, j'.done⟩ where
  done := h.done
  visible := State.store_visible h.visible addr n v
  chain := h.chain

theorem Job.Alike.load (h : j.Alike iv k j') (addr n : Nat) : j.st.load addr n = j'.st.load addr n :=
  State.load_of_visible h.visible addr n

/-- A block call reads the round keys and the counter, no key and no IV. -/
theorem blockCall_same (h : j.Alike iv k j') (dir : Direction) (b : List Byte) :
    SameCall iv k (blockCall dir k b j) (blockCall dir k b j') := by
  have hk := State.slot_alike h.visible k
  by_cases hc : (j.st.slot k).resourceCounter = 0
  · rw [blockCall_exhausted hc, blockCall_exhausted (hk.resourceCounter ▸ hc)]
    exact .error h
  · have hop : blockOp dir j.st.par j.st.tbl (j.st.slot k) b = blockOp dir j'.st.par j'.st.tbl (j'.st.slot k) b := by
      have hpar : j.st.par = j'.st.par := State.par_of_visible h.visible
      have htbl : j.st.tbl = j'.st.tbl := State.tbl_of_visible h.visible
      rw [hpar, htbl]
      exact blockOp_congr hk.kind hk.rk hk.nrk b
    rw [blockCall_counts hc, blockCall_counts (hk.resourceCounter ▸ hc), hop]
    have hsl : Slot.Alike { j.st.slot k with resourceCounter := (j.st.slot k).resourceCounter - 1 }
        { j'.st.slot k with resourceCounter := (j'.st.slot k).resourceCounter - 1 } :=
      { hk with resourceCounter := congrArg (· - 1) hk.resourceCounter }
    exact .ok _ (h.setSlot hsl h.chain (congrArg (· + 1) h.done))

theorem derivationLoop_same {bs : Nat} : ∀ (n i : Nat) (buf : List Byte) {j j' : Job}, j.Alike iv k j' →
    SameCall iv k (derivationLoop k bs n i buf j) (derivationLoop k bs n i buf j') := by
  intro n
  induction n with
  | zero => exact fun i buf j j' h => .ok buf h
  | succ n ih =>
    intro i buf j j' h
    have hpar : j.st.par = j'.st.par := State.par_of_visible h.visible
    have hcall := blockCall_same h .encrypt (acpkmBlock j.st.par.profile bs i)
    simp only [derivationLoop, ← hpar]
    revert hcall
    generalize blockCall .encrypt k (acpkmBlock j.st.par.profile bs i) j = r
    generalize blockCall .encrypt k (acpkmBlock j.st.par.profile bs i) j' = r'
    rintro (⟨b, h1⟩ | h1)
    · exact ih _ _ h1
    · exact .error h1

theorem deriveNext_same (h : j.Alike iv k j') : SameEnd iv k (deriveNext k j) (deriveNext k j') := by
  have hk := State.slot_alike h.visible k
  have hloop := derivationLoop_same (bs := (j.st.slot k).bs) (j.st.slot k).derivationBlocks 0 [] h
  simp only [deriveNext, ← hk.resourceCounter, ← hk.derivationBlocks, ← hk.bs, ← hk.keyLen]
  split
  · exact .error h
  revert hloop
  generalize derivationLoop k (j.st.slot k).bs (j.st.slot k).derivationBlocks 0 [] j = r
  generalize derivationLoop k (j.st.slot k).bs (j.st.slot k).derivationBlocks 0 [] j' = r'
  rintro (⟨b, h1⟩ | h1)
  · rename_i j1 j1'
    have hpar : j1.st.par = j1'.st.par := State.par_of_visible h1.visible
    have htbl : j1.st.tbl = j1'.st.tbl := State.tbl_of_visible h1.visible
    simp only [← hpar, ← htbl]
    refine .ok (h1.setSlot ((State.slot_alike h1.visible k).installKey _ _ _) (fun hiv => ?_) h1.done)
    obtain ⟨_, _, ha⟩ := Slot.installKey_eq j1.st.par j1.st.tbl (j1.st.slot k) (b.take (j.st.slot k).keyLen.toNat)
    obtain ⟨_, _, hb⟩ := Slot.installKey_eq j1.st.par j1.st.tbl (j1'.st.slot k) (b.take (j.st.slot k).keyLen.toNat)
    rw [ha, hb]
    exact h1.chain hiv
  · exact .error h1

/-- Writing the chain of a mode that has loaded its IV. -/
theorem Job.Alike.setChain (h : j.Alike iv k j') (b : List Byte) :
    Job.Alike iv k ⟨j.st.setSlot k ((j.st.slot k).setChain b), j.done⟩
      ⟨j'.st.setSlot k ((j'.st.slot k).setChain b), j'.done⟩ :=
  h.setSlot ((State.slot_alike h.visible k).setChain b) (fun hiv => by simp only [Slot.setChain, h.chain hiv]) h.done

theorem Job.Alike.chainBlock (h : j.Alike True k j') (n : Nat) : (j.st.slot k).chain n = (j'.st.slot k).chain n := by
  rw [Slot.chain, Slot.chain, h.chain trivial]

/-! #### The bodies of the modes -/

theorem ecbBody_same (h : j.Alike iv k j') (dir : Direction) (src dst bs i : Nat) :
    SameEnd iv k (ecbBody dir k src dst bs i j) (ecbBody dir k src dst bs i j') := by
  have hcall := blockCall_same h dir (j.st.load (src + i * bs) bs)
  simp only [ecbBody, ← h.load]
  revert hcall
  generalize blockCall dir k (j.st.load (src + i * bs) bs) j = r
  generalize blockCall dir k (j.st.load (src + i * bs) bs) j' = r'
  rintro (⟨b, h1⟩ | h1)
  · exact .ok (h1.store _ _ _)
  · exact .error h1

theorem cbcEncBody_same (h : j.Alike True k j') (src dst bs i : Nat) :
    SameEnd True k (cbcEncBody k src dst bs i j) (cbcEncBody k src dst bs i j') := by
  have hcall := blockCall_same h .encrypt (xorBytes (j.st.load (src + i * bs) bs) ((j.st.slot k).chain bs))
  simp only [cbcEncBody, ← h.load, ← h.chainBlock]
  revert hcall
  generalize blockCall .encrypt k (xorBytes (j.st.load (src + i * bs) bs) ((j.st.slot k).chain bs)) j = r
  generalize blockCall .encrypt k (xorBytes (j.st.load (src + i * bs) bs) ((j.st.slot k).chain bs)) j' = r'
  rintro (⟨b, h1⟩ | h1)
  · exact .ok ((h1.setChain _).store _ _ _)
  · exact .error h1

theorem cbcDecBody_same (h : j.Alike True k j') (src dst bs i : Nat) :
    SameEnd True k (cbcDecBody k src dst bs i j) (cbcDecBody k src dst bs i j') := by
  have hcall := blockCall_same h .decrypt (j.st.load (src + i * bs) bs)
  simp only [cbcDecBody, ← h.load, ← h.chainBlock]
  revert hcall
  generalize blockCall .decrypt k (j.st.load (src + i * bs) bs) j = r
  generalize blockCall .decrypt k (j.st.load (src + i * bs) bs) j' = r'
  rintro (⟨b, h1⟩ | h1)
  · exact .ok ((h1.setChain _).store _ _ _)
  · exact .error h1

theorem ctrBody_same (h : j.Alike True k j') (src dst len bs i : Nat) :
    SameEnd True k (ctrBody k src dst len bs i j) (ctrBody k src dst len bs i j') := by
  have hcall := blockCall_same h .encrypt ((j.st.slot k).chain bs)
  simp only [ctrBody, ← h.load, ← h.chainBlock]
  revert hcall
  generalize blockCall .encrypt k ((j.st.slot k).chain bs) j = r
  generalize blockCall .encrypt k ((j.st.slot k).chain bs) j' = r'
  rintro (⟨b, h1⟩ | h1)
  · exact .ok ((h1.setChain _).store _ _ _)
  · exact .error h1

theorem acpkmBody_same (h : j.Alike True k j') (section_ src dst len bs i : Nat) :
    SameEnd True k (acpkmBody section_ k src dst len bs i j) (acpkmBody section_ k src dst len bs i j') := by
  have hd : SameEnd True k (if 0 < i ∧ i % section_ = 0 then deriveNext k j else .ok j)
      (if 0 < i ∧ i % section_ = 0 then deriveNext k j' else .ok j') := by
    split
    · exact deriveNext_same h
    · exact .ok h
  simp only [acpkmBody]
  revert hd
  generalize (if 0 < i ∧ i % section_ = 0 then deriveNext k j else .ok j) = r
  generalize (if 0 < i ∧ i % section_ = 0 then deriveNext k j' else .ok j') = r'
  rintro (h1 | h1)
  · exact ctrBody_same h1 src dst len bs i
  · exact .error h1

theorem cmacChain_same {src bs : Nat} : ∀ (n i : Nat) (chain : List Byte) {j j' : Job}, j.Alike iv k j' →
    SameCall iv k (cmacChain k src bs n i chain j) (cmacChain k src bs n i chain j') := by
  intro n
  induction n with
  | zero => exact fun i chain j j' h => .ok chain h
  | succ n ih =>
    intro i chain j j' h
    have hcall := blockCall_same h .encrypt (xorBytes chain (j.st.load (src + i * bs) bs))
    simp only [cmacChain, ← h.load]
    revert hcall
    generalize blockCall .encrypt k (xorBytes chain (j.st.load (src + i * bs) bs)) j = r
    generalize blockCall .encrypt k (xorBytes chain (j.st.load (src + i * bs) bs)) j' = r'
    rintro (⟨b, h1⟩ | h1)
    · exact ih _ _ h1
    · exact .error h1

theorem cmacJob_same (h : j.Alike iv k j') (src len dst tagLen bs : Nat) :
    SameEnd iv k (cmacJob k src len dst tagLen bs j) (cmacJob k src len dst tagLen bs j') := by
  have hzero := blockCall_same h .encrypt (List.replicate bs 0)
  simp only [cmacJob]
  revert hzero
  generalize blockCall .encrypt k (List.replicate bs 0) j = r
  generalize blockCall .encrypt k (List.replicate bs 0) j' = r'
  rintro (⟨l, h1⟩ | h1)
  case error => exact .error h1
  rename_i j1 j1'
  have hchain := cmacChain_same (src := src) (bs := bs) (max 1 (ceilDiv len bs) - 1) 0 (List.replicate bs 0) h1
  simp only
  revert hchain
  generalize cmacChain k src bs (max 1 (ceilDiv len bs) - 1) 0 (List.replicate bs 0) j1 = r
  generalize cmacChain k src bs (max 1 (ceilDiv len bs) - 1) 0 (List.replicate bs 0) j1' = r'
  rintro (⟨chain, h2⟩ | h2)
  case error => exact .error h2
  rename_i j2 j2'
  simp only [← h2.load]
  have hlast := blockCall_same h2 .encrypt (xorBytes chain (cmacLast bs (doubleBlock bs l) (doubleBlock bs (doubleBlock bs l))
    (j2.st.load (src + (max 1 (ceilDiv len bs) - 1) * bs) (len - (max 1 (ceilDiv len bs) - 1) * bs))))
  revert hlast
  generalize blockCall .encrypt k (xorBytes chain _) j2 = r
  generalize blockCall .encrypt k (xorBytes chain _) j2' = r'
  rintro (⟨tag, h3⟩ | h3)
  · exact .ok (h3.store _ _ _)
  · exact .error h3

theorem blocksLoop_same {body : Nat → Job → Except Job Job}
    (hbody : ∀ i {j j' : Job}, j.Alike iv k j' → SameEnd iv k (body i j) (body i j')) :
    ∀ (n i : Nat) {j j' : Job}, j.Alike iv k j' → SameEnd iv k (blocksLoop body n i j) (blocksLoop body n i j') := by
  intro n
  induction n with
  | zero => exact fun i j j' h => .ok h
  | succ n ih =>
    intro i j j' h
    have hb := hbody i h
    simp only [blocksLoop]
    revert hb
    generalize body i j = r
    generalize body i j' = r'
    rintro (h1 | h1)
    · exact ih _ h1
    · exact .error h1

theorem finishJob_visible {r r' : Except Job Job} (h : SameEnd iv k r r') (req : Nat) :
    (finishJob k req r).visible = (finishJob k req r').visible := by
  obtain h1 | h1 := h
  · simp only [finishJob, State.succeed_eq, h1.done]
    exact State.conclude_visible h1.visible _ _ _ _
  · simp only [finishJob, State.raise_eq, h1.done]
    exact State.conclude_visible h1.visible _ _ _ _

end

end Sys2Proof.Machine
end

section
/-! ### Every host command on states that look alike -/

namespace Sys2Proof.Machine

section
variable {s s' : State} {k : SlotId}

/-! #### What the checks and the effects read -/

theorem State.buf0_of_visible (h : s.visible = s'.visible) : s.buf0 = s'.buf0 := by
  obtain ⟨slots, rfl⟩ := State.exists_slots_of_visible h
  rfl

theorem State.buf1_of_visible (h : s.visible = s'.visible) : s.buf1 = s'.buf1 := by
  obtain ⟨slots, rfl⟩ := State.exists_slots_of_visible h
  rfl

theorem State.buf2_of_visible (h : s.visible = s'.visible) : s.buf2 = s'.buf2 := by
  obtain ⟨slots, rfl⟩ := State.exists_slots_of_visible h
  rfl

theorem State.extra_of_visible (h : s.visible = s'.visible) : s.extra = s'.extra := by
  obtain ⟨slots, rfl⟩ := State.exists_slots_of_visible h
  rfl

theorem State.draws_of_visible (h : s.visible = s'.visible) : s.draws = s'.draws := by
  obtain ⟨slots, rfl⟩ := State.exists_slots_of_visible h
  rfl

theorem absentCheck_alike (h : (s.slot k).Alike (s'.slot k)) : absentCheck s k = absentCheck s' k := by
  rw [absentCheck, absentCheck, h.present]

theorem unboundCheck_alike (h : (s.slot k).Alike (s'.slot k)) : unboundCheck s k = unboundCheck s' k := by
  rw [unboundCheck, unboundCheck, h.kind]

theorem unkeyedCheck_alike (h : (s.slot k).Alike (s'.slot k)) : unkeyedCheck s k = unkeyedCheck s' k := by
  rw [unkeyedCheck, unkeyedCheck, h.keySet]

theorem resourceCheck_alike (h : (s.slot k).Alike (s'.slot k)) (m : Nat) : resourceCheck s k m = resourceCheck s' k m := by
  rw [resourceCheck, resourceCheck, h.resourceCounter]

theorem modeChecks_visible (h : s.visible = s'.visible) (n : Nat) : modeChecks s k n = modeChecks s' k n := by
  have hk := State.slot_alike h k
  rw [modeChecks, modeChecks, absentCheck_alike hk, unboundCheck_alike hk, unkeyedCheck_alike hk, State.buf0_of_visible h,
    State.buf1_of_visible h]

theorem builderChecks_visible (h : s.visible = s'.visible) (cs : List Check) : builderChecks s cs = builderChecks s' cs := by
  rw [builderChecks, builderChecks, State.buf0_of_visible h, State.buf1_of_visible h, State.par_of_visible h]

/-! #### The table builder -/

theorem State.tbl_visible (h : s.visible = s'.visible) (t : TableSet) :
    ({ s with tbl := t } : State).visible = ({ s' with tbl := t } : State).visible := by
  have hv : ∀ u : State, ({ u with tbl := t } : State).visible = { u.visible with tbl := t } := fun u => by
    simp only [State.visible, State.slot]
  rw [hv, hv, h]

theorem installTables_visible (h : s.visible = s'.visible) (m : Matrix16) (p : ByteTable) :
    (s.installTables m p).visible = (s'.installTables m p).visible := by
  have hpar : s'.par.profile.poly = s.par.profile.poly := by rw [State.par_of_visible h]
  simp only [State.installTables, hpar, State.raise_eq, State.succeed_eq]
  cases invertMatrix s.par.profile.poly m with
  | none => exact State.conclude_visible h _ _ _ _
  | some minv =>
    cases invertPermutation p with
    | none => exact State.conclude_visible h _ _ _ _
    | some tinv => exact State.conclude_visible (State.tbl_visible h _) _ _ _ _

theorem execGenMatrix_visible (h : s.visible = s'.visible) :
    visibleOutcome (execGenMatrix s) = visibleOutcome (execGenMatrix s') := by
  refine command_visible h ?_ ?_
  · rw [builderChecks_visible h, State.buf0_of_visible h]
  · simp only [State.succeed_eq, State.par_of_visible h, State.buf0_of_visible h, State.buf1_of_visible h,
      State.load_of_visible h]
    exact State.conclude_visible (State.store_visible h _ _ _) _ _ _ _

theorem execInvMatrix_visible (h : s.visible = s'.visible) :
    visibleOutcome (execInvMatrix s) = visibleOutcome (execInvMatrix s') := by
  refine command_visible h ?_ ?_
  · rw [builderChecks_visible h, State.buf0_of_visible h]
  · simp only [State.raise_eq, State.succeed_eq, State.par_of_visible h, State.buf0_of_visible h, State.buf1_of_visible h,
      State.load_of_visible h]
    cases invertMatrix s'.par.profile.poly (Matrix16.ofList (s'.load s'.buf0.addr 256)) with
    | none => exact State.conclude_visible h _ _ _ _
    | some b => exact State.conclude_visible (State.store_visible h _ _ _) _ _ _ _

theorem execInvPerm_visible (h : s.visible = s'.visible) :
    visibleOutcome (execInvPerm s) = visibleOutcome (execInvPerm s') := by
  refine command_visible h ?_ ?_
  · rw [builderChecks_visible h, State.buf0_of_visible h]
  · simp only [State.raise_eq, State.succeed_eq, State.buf0_of_visible h, State.buf1_of_visible h, State.load_of_visible h]
    cases invertPermutation (ByteTable.ofList (s'.load s'.buf0.addr 256)) with
    | none => exact State.conclude_visible h _ _ _ _
    | some inv => exact State.conclude_visible (State.store_visible h _ _ _) _ _ _ _

theorem execInitTables_visible (h : s.visible = s'.visible) :
    visibleOutcome (execInitTables s) = visibleOutcome (execInitTables s') := by
  refine command_visible h ?_ ?_
  · rw [State.par_of_visible h, State.buf0_of_visible h, State.buf1_of_visible h]
  · rw [State.buf0_of_visible h, State.buf1_of_visible h, State.load_of_visible h, State.load_of_visible h]
    exact installTables_visible h _ _

theorem execInitDefault_visible (h : s.visible = s'.visible) (variant : Variant) :
    visibleOutcome (execInitDefault variant s) = visibleOutcome (execInitDefault variant s') := by
  refine command_visible h rfl ?_
  rw [← State.par_of_visible h]
  split
  · exact State.conclude_visible h _ _ _ _
  · exact installTables_visible h _ _

/-! #### The key object -/

/-- A new key hides the old one. -/
theorem State.setKey_visible (h : s.visible = s'.visible) (kb : List Byte) :
    (s.setKey k kb).visible = (s'.setKey k kb).visible := by
  have hinst := (State.slot_alike h k).installKey s.par s.tbl kb
  simp only [State.setKey, ← State.par_of_visible h, ← State.tbl_of_visible h]
  refine State.conclude_visible (State.setSlot_visible h ?_) _ _ _ _
  exact { hinst with resourceCounter := congrArg (resourceMax s.par) hinst.kind }

theorem execBind_visible (h : s.visible = s'.visible) (kind : BindKind) :
    visibleOutcome (execBind k kind s) = visibleOutcome (execBind k kind s') := by
  have hk := State.slot_alike h k
  refine command_visible h ?_ ?_
  · rw [absentCheck_alike hk, hk.kind, hk.blockSize, State.par_of_visible h, State.tbl_of_visible h]
  · refine State.conclude_visible (State.setSlot_visible h ?_) _ _ _ _
    exact { hk with kind := rfl }

theorem execSetKey_visible (h : s.visible = s'.visible) :
    visibleOutcome (execSetKey k s) = visibleOutcome (execSetKey k s') := by
  have hk := State.slot_alike h k
  refine command_visible h ?_ ?_
  · rw [absentCheck_alike hk, unboundCheck_alike hk, hk.kind, State.par_of_visible h, State.buf0_of_visible h]
  · rw [State.buf0_of_visible h, State.load_of_visible h]
    exact State.setKey_visible h _

theorem State.draws_visible (h : s.visible = s'.visible) (n : Nat) :
    ({ s with draws := n } : State).visible = ({ s' with draws := n } : State).visible := by
  have hv : ∀ u : State, ({ u with draws := n } : State).visible = { u.visible with draws := n } := fun u => by
    simp only [State.visible, State.slot]
  rw [hv, hv, h]

theorem execSetKeyRandom_visible (h : s.visible = s'.visible) (n : Nat) :
    visibleOutcome (execSetKeyRandom k n s) = visibleOutcome (execSetKeyRandom k n s') := by
  have hk := State.slot_alike h k
  have hlen : randomKeyLen s k n = randomKeyLen s' k n := by
    rw [randomKeyLen, randomKeyLen, hk.kind, State.par_of_visible h]
  refine command_visible h ?_ ?_
  · rw [absentCheck_alike hk, unboundCheck_alike hk, hk.kind, hlen, State.par_of_visible h]
  · rw [hlen, State.draws_of_visible h]
    cases Config.rngFill s'.draws (randomKeyLen s' k n) with
    | none =>
      simp only [State.raise_eq]
      exact State.conclude_visible (State.draws_visible h _) _ _ _ _
    | some b => exact State.setKey_visible (State.draws_visible h _) _

/-- Two runs of a command begin with nothing done and with states that look alike. -/
theorem State.job_alike (h : s.visible = s'.visible) : Job.Alike False k ⟨s, 0⟩ ⟨s', 0⟩ where
  done := rfl
  visible := h
  chain := False.elim

theorem execDeriveNext_visible (h : s.visible = s'.visible) :
    visibleOutcome (execDeriveNext k s) = visibleOutcome (execDeriveNext k s') := by
  have hk := State.slot_alike h k
  refine command_visible h ?_ ?_
  · rw [absentCheck_alike hk, unboundCheck_alike hk, unkeyedCheck_alike hk, hk.resourceCounter, hk.derivationBlocks]
  · rw [hk.derivationBlocks]
    exact finishJob_visible (deriveNext_same (State.job_alike h)) _

theorem execCreate_visible (h : s.visible = s'.visible) (n : Nat) :
    visibleOutcome (execCreate k n s) = visibleOutcome (execCreate k n s') := by
  refine command_visible h ?_ (State.conclude_visible (State.setSlot_visible h ?_) _ _ _ _)
  · rw [(State.slot_alike h k).present]
  · exact Slot.visible_eq_iff.mp rfl

theorem execDestroy_visible (h : s.visible = s'.visible) :
    visibleOutcome (execDestroy k s) = visibleOutcome (execDestroy k s') := by
  refine command_visible h rfl (State.conclude_visible ?_ _ _ _ _)
  rw [(State.slot_alike h k).present]
  split
  · exact State.setSlot_visible h (Slot.visible_eq_iff.mp rfl)
  · exact h

/-! #### The modes -/

/-- After an IV is loaded the IV buffers agree. -/
theorem State.loadIv_alike (h : s.visible = s'.visible) (b : List Byte) :
    Job.Alike True k ⟨s.loadIv k b, 0⟩ ⟨s'.loadIv k b, 0⟩ where
  done := rfl
  visible := State.setSlot_visible h ((State.slot_alike h k).loadIv b)
  chain _ := by
    simp only [State.loadIv, State.slot_setSlot_same, Slot.loadIv]

theorem ecbCommand_visible (h : s.visible = s'.visible) (dir : Direction) :
    visibleOutcome (ecbCommand dir k s) = visibleOutcome (ecbCommand dir k s') := by
  have hk := State.slot_alike h k
  refine command_visible h ?_ ?_
  · rw [modeChecks_visible h, resourceCheck_alike hk, hk.bs, State.par_of_visible h, State.buf0_of_visible h,
      State.buf1_of_visible h]
  · rw [hk.bs, State.buf0_of_visible h, State.buf1_of_visible h]
    exact finishJob_visible (blocksLoop_same (fun i _ _ hj => ecbBody_same hj _ _ _ _ i) _ _ (State.job_alike h)) _

/-- The body of a mode with a chain, in runs whose chains agree. -/
def ChainBodySame (k : SlotId) (body : Nat → Job → Except Job Job) : Prop :=
  ∀ (i : Nat) {j j' : Job}, j.Alike True k j' → SameEnd True k (body i j) (body i j')

theorem cbcCommand_visible {body : SlotId → Nat → Nat → Nat → Nat → Job → Except Job Job}
    (hbody : ∀ src dst bs, ChainBodySame k (body k src dst bs))
    (h : s.visible = s'.visible) : visibleOutcome (cbcCommand body k s) = visibleOutcome (cbcCommand body k s') := by
  have hk := State.slot_alike h k
  refine command_visible h ?_ ?_
  · rw [modeChecks_visible h, resourceCheck_alike hk, hk.bs, State.par_of_visible h, State.buf0_of_visible h,
      State.buf1_of_visible h, State.buf2_of_visible h]
  · rw [hk.bs, State.buf0_of_visible h, State.buf1_of_visible h, State.buf2_of_visible h, State.load_of_visible h]
    exact finishJob_visible (blocksLoop_same (hbody _ _ _) _ _ (State.loadIv_alike h _)) _

theorem ctrCommand_visible {body : SlotId → Nat → Nat → Nat → Nat → Nat → Job → Except Job Job} {extra : List Check} {m : Nat}
    (hbody : ∀ src dst len bs, ChainBodySame k (body k src dst len bs))
    (h : s.visible = s'.visible) :
    visibleOutcome (ctrCommand body extra m k s) = visibleOutcome (ctrCommand body extra m k s') := by
  have hk := State.slot_alike h k
  refine command_visible h ?_ ?_
  · rw [modeChecks_visible h, resourceCheck_alike hk, hk.bs, State.par_of_visible h, State.buf0_of_visible h,
      State.buf1_of_visible h, State.buf2_of_visible h]
  · rw [firstCounter, firstCounter, hk.bs, State.buf0_of_visible h, State.buf1_of_visible h, State.buf2_of_visible h,
      State.load_of_visible h]
    exact finishJob_visible (blocksLoop_same (hbody _ _ _ _) _ _ (State.loadIv_alike h _)) _

theorem execCtr_visible (h : s.visible = s'.visible) : visibleOutcome (execCtr k s) = visibleOutcome (execCtr k s') := by
  rw [execCtr, execCtr, State.buf0_of_visible h, (State.slot_alike h k).bs]
  exact ctrCommand_visible (fun _ _ _ _ i _ _ hj => ctrBody_same hj _ _ _ _ i) h

theorem execCtrAcpkm_visible (h : s.visible = s'.visible) :
    visibleOutcome (execCtrAcpkm k s) = visibleOutcome (execCtrAcpkm k s') := by
  have hk := State.slot_alike h k
  rw [execCtrAcpkm, execCtrAcpkm, State.buf0_of_visible h, State.extra_of_visible h, hk.bs, hk.derivationBlocks]
  exact ctrCommand_visible (fun _ _ _ _ i _ _ hj => acpkmBody_same hj _ _ _ _ _ i) h

theorem execCmac_visible (h : s.visible = s'.visible) :
    visibleOutcome (execCmac k s) = visibleOutcome (execCmac k s') := by
  have hk := State.slot_alike h k
  refine command_visible h ?_ ?_
  · rw [modeChecks_visible h, resourceCheck_alike hk, hk.bs, State.par_of_visible h, State.buf0_of_visible h,
      State.buf1_of_visible h, State.extra_of_visible h]
  · rw [hk.bs, State.buf0_of_visible h, State.buf1_of_visible h, State.extra_of_visible h]
    exact finishJob_visible (cmacJob_same (State.job_alike h) _ _ _ _ _) _

end

/-- Settles O60, command by command. -/
theorem hiddenStateUnobservable : Obligations.HiddenStateUnobservable := by
  intro i s s' hi h
  cases i <;> simp only [exec]
  case genMatrix => exact execGenMatrix_visible h
  case invMatrix => exact execInvMatrix_visible h
  case invPerm => exact execInvPerm_visible h
  case initTables => exact execInitTables_visible h
  case initDefault variant => exact execInitDefault_visible h variant
  case create k n => exact execCreate_visible h n
  case bind k kind => exact execBind_visible h kind
  case setKey k => exact execSetKey_visible h
  case setKeyRandom k n => exact execSetKeyRandom_visible h n
  case deriveNext k => exact execDeriveNext_visible h
  case destroy k => exact execDestroy_visible h
  case ecbEnc k => exact ecbCommand_visible h .encrypt
  case ecbDec k => exact ecbCommand_visible h .decrypt
  case cbcEnc k => exact cbcCommand_visible (fun _ _ _ i _ _ hj => cbcEncBody_same hj _ _ _ i) h
  case cbcDec k => exact cbcCommand_visible (fun _ _ _ i _ _ hj => cbcDecBody_same hj _ _ _ i) h
  case ctr k => exact execCtr_visible h
  case ctrAcpkm k => exact execCtrAcpkm_visible h
  case cmac k => exact execCmac_visible h
  all_goals cases hi

end Sys2Proof.Machine
end

section
/-! ### The checks of the mode and builder commands, in order (43_modes.md R180, 40_table_builder.md R107)

Each command is a list of checks before an effect. Its list is compared once with the verdict of the rules; how the
command ends, and that it has its effect when every check passes, follow from that alone. -/

namespace Sys2Proof.Machine

/-! #### A command, its verdict and its effect -/

/-- `o` is the outcome of a command on slot `k` whose checks have verdict `v` and whose effect is `e`. -/
def RunsAs (o : Host.Outcome State Fault Refusal) (s : State) (k : Option SlotId) (v : Verdict) (e : State) : Prop :=
  ∃ cs, o = command s k cs e ∧ v = verdictOf (firstStop cs)

section
variable {o : Host.Outcome State Fault Refusal} {s e : State} {k : Option SlotId} {v : Verdict}

/-- When every check passes the command has its effect. -/
theorem RunsAs.passes (h : RunsAs o s k v e) (hf : s.fault = false) (hv : v = .go) : o = .next e := by
  obtain ⟨cs, rfl, hcs⟩ := h
  exact command_passes hf (verdictOf_eq_go.mp (hcs.symm.trans hv))

/-- The command ends as its verdict says, if an effect that takes place sets no fault. -/
theorem RunsAs.ends (h : RunsAs o s k v e) (hf : s.fault = false) (he : v = .go → e.fault = false) : v.Ends s k o := by
  by_cases hv : v = .go
  · have ho := h.passes hf hv
    rw [hv] at he ⊢
    exact ⟨e, ho, he rfl⟩
  · obtain ⟨cs, rfl, rfl⟩ := h
    cases hc : firstStop cs with
    | none => exact absurd (by rw [hc]; rfl) hv
    | some stop =>
      rw [command_stops hf hc, ← command_stops (e := s) hf hc]
      exact command_ends hf hf (by rw [hc])

end

/-! #### Shared lists of checks -/

section
variable {s : State} {k : SlotId}

/-- The verdict when checks (3), (4), (a), (b) head the list. -/
theorem verdictOf_modeChecks_append (n : Nat) (cs : List Check) :
    verdictOf (firstStop (modeChecks s k n ++ cs)) =
      if (s.slot k).present = false then .error 1 0
      else if ¬ s.buf0.Present ∨ ¬ s.buf1.Present ∨ (0 < n ∧ s.buf1.addr = 0) then .error 1 0
      else if (s.slot k).kind = .unbound then .error 6 0
      else if (s.slot k).keySet = false then .error 9 0
      else verdictOf (firstStop cs) := by
  simp only [modeChecks, absentCheck, unboundCheck, unkeyedCheck, List.cons_append, List.nil_append,
    verdictOf_firstStop_cons, Bool.or_eq_true, Bool.and_eq_true, Bool.not_eq_true', decide_eq_true_eq,
    Buffer.missing_eq_true, or_assoc]
  rfl

/-- Some buffer is out of range when not all are in range. -/
theorem any_outOfRange_eq_true {size : Nat} {buffers : List Buffer} :
    (buffers.any fun b => b.outOfRange size) = true ↔ ¬ ∀ b ∈ buffers, b.InRange size := by
  simp only [List.any_eq_true, Buffer.outOfRange_eq_true]
  push Not
  rfl

/-- The verdict when the contract checks stand before others. -/
theorem verdictOf_contractChecks_append (size : Nat) (buffers : List Buffer) (tooShort overlap : Bool) (cs : List Check) :
    verdictOf (firstStop (contractChecks size buffers tooShort overlap ++ cs)) =
      contractVerdict size buffers (!tooShort) (!overlap) (verdictOf (firstStop cs)) := by
  simp only [contractChecks, contractVerdict, List.cons_append, List.nil_append, verdictOf_firstStop_cons,
    any_outOfRange_eq_true]
  cases tooShort <;> cases overlap <;> rfl

/-- The verdict of check (h). -/
theorem verdictOf_resourceCheck (m : Nat) :
    verdictOf (firstStop [resourceCheck s k m]) =
      if 0 < m ∧ (s.slot k).resourceCounter = 0 then .error 8 m else .go := by
  simp only [resourceCheck, verdictOf_firstStop_cons, Bool.and_eq_true, decide_eq_true_eq]
  rfl

/-- The model's overlap test fails exactly when the bytes written start at the input or are apart from it (20_memory.md R69). -/
theorem not_partialOverlap (dst n : Nat) (b : Buffer) : (!partialOverlap dst n b) = decide (b.AliasOrApart dst n) := by
  rw [Bool.eq_iff_iff]
  simp only [partialOverlap, rangesMeet, Bool.not_eq_true', Bool.and_eq_false_iff, decide_eq_false_iff_not,
    decide_eq_true_eq]
  omega

/-- Of the IV they have to be apart (R69). -/
theorem not_ivOverlap (dst n : Nat) (b : Buffer) : (!ivOverlap dst n b) = decide (b.Apart dst n) := by
  rw [Bool.eq_iff_iff]
  simp only [ivOverlap, rangesMeet, Bool.not_eq_true', decide_eq_false_iff_not, decide_eq_true_eq]
  omega

theorem not_tooShort (a b : Nat) : (!decide (b < a)) = decide (a ≤ b) := by
  simp only [← decide_not, not_lt]

/-! #### The seven mode commands -/

/-- Steps (c) to (f) of R180, or `rest` where none of them fails. -/
def operandVerdict (i : Instr) (s : State) (rest : Verdict) : Verdict :=
  if zeroLength i s = true then .error 2 0
  else if unaligned i s = true then .error 4 0
  else if badIv i s = true then .error 5 0
  else if badTag i s = true then .error 7 0
  else rest

/-- A list of checks in the order of R180 has the verdict of R180, if its operand checks are those of steps (c) to (f) and its
contract checks those of step (g). -/
theorem modeVerdict_eq_of_checks {i : Instr} {operands : List Check} {tooShort overlap : Bool}
    (hoperands : ∀ cs, verdictOf (firstStop (operands ++ cs)) = operandVerdict i s (verdictOf (firstStop cs)))
    (hshort : (!tooShort) = longEnough i s) (hoverlap : (!overlap) = wellPlaced i s) :
    modeVerdict i k s =
      verdictOf (firstStop
        (modeChecks s k (outBytes i s) ++ operands ++
          contractChecks s.par.memSize (modeBuffers i s) tooShort overlap ++ [resourceCheck s k (blocksNeeded i s)])) := by
  rw [List.append_assoc, List.append_assoc, verdictOf_modeChecks_append, hoperands, verdictOf_contractChecks_append,
    verdictOf_resourceCheck, hshort, hoverlap]
  rfl

/-- `ECB_ENC` and `ECB_DEC` have the same checks. -/
theorem ecbCommand_runsAs (dir : Direction) :
    RunsAs (ecbCommand dir k s) s (some k) (modeVerdict (.ecbEnc k) k s)
      (finishJob k (s.buf0.len / (s.slot k).bs)
        (blocksLoop (ecbBody dir k s.buf0.addr s.buf1.addr (s.slot k).bs) (s.buf0.len / (s.slot k).bs) 0 ⟨s, 0⟩)) := by
  refine ⟨_, rfl, modeVerdict_eq_of_checks (fun cs => ?_) ?_ ?_⟩
  · simp only [operandVerdict, zeroLength, unaligned, badIv, badTag, alignedCheck, List.cons_append, List.nil_append,
      verdictOf_firstStop_cons, decide_eq_true_eq, bne_iff_ne]
    rfl
  · simp only [longEnough, Bool.not_or, not_tooShort, decide_not, Bool.not_not, beq_eq_decide]
  · rw [not_partialOverlap]
    exact (Bool.and_true _).symm

/-- So have `CBC_ENC` and `CBC_DEC`. -/
theorem cbcCommand_runsAs (body : SlotId → Nat → Nat → Nat → Nat → Job → Except Job Job) :
    RunsAs (cbcCommand body k s) s (some k) (modeVerdict (.cbcEnc k) k s)
      (finishJob k (s.buf0.len / (s.slot k).bs)
        (blocksLoop (body k s.buf0.addr s.buf1.addr (s.slot k).bs) (s.buf0.len / (s.slot k).bs) 0
          ⟨s.loadIv k (s.load s.buf2.addr (s.slot k).bs), 0⟩)) := by
  refine ⟨_, rfl, modeVerdict_eq_of_checks (fun cs => ?_) ?_ ?_⟩
  · simp only [operandVerdict, zeroLength, unaligned, badIv, badTag, alignedCheck, cbcIvCheck, List.cons_append,
      List.nil_append, verdictOf_firstStop_cons, decide_eq_true_eq, bne_iff_ne, Bool.or_eq_true, beq_iff_eq]
    rfl
  · simp only [longEnough, Bool.not_or, not_tooShort, decide_not, Bool.not_not, beq_eq_decide]
  · rw [Bool.not_or, not_partialOverlap, not_ivOverlap]
    rfl

/-- So have `CTR` and `CTR_ACPKM`, but for the section length of the latter. -/
theorem ctrCommand_runsAs (body : SlotId → Nat → Nat → Nat → Nat → Nat → Job → Except Job Job) {extra : List Check}
    {i : Instr} (hi : i = .ctr k ∨ i = .ctrAcpkm k)
    (hextra : ∀ cs, verdictOf (firstStop (extra ++ cs)) =
      if zeroLength i s = true then .error 2 0 else verdictOf (firstStop cs)) :
    RunsAs (ctrCommand body extra (blocksNeeded i s) k s) s (some k) (modeVerdict i k s)
      (finishJob k (blocksNeeded i s)
        (blocksLoop (body k s.buf0.addr s.buf1.addr s.buf0.len (s.slot k).bs) (ceilDiv s.buf0.len (s.slot k).bs) 0
          ⟨s.loadIv k (firstCounter s s.buf2 (s.slot k).bs), 0⟩)) := by
  refine ⟨_, rfl, ?_⟩
  rw [List.append_assoc (modeChecks _ _ _)]
  obtain rfl | rfl := hi
  all_goals
    refine modeVerdict_eq_of_checks (fun cs => ?_) (not_tooShort _ _) ?_
    · rw [List.append_assoc, hextra]
      simp only [operandVerdict, unaligned, badIv, badTag, ctrIvCheck, List.cons_append, List.nil_append,
        verdictOf_firstStop_cons, decide_eq_true_eq, Bool.or_eq_true, beq_iff_eq]
      rfl
    · rw [Bool.not_or, not_partialOverlap, not_ivOverlap]
      rfl

theorem execCtr_runsAs :
    RunsAs (execCtr k s) s (some k) (modeVerdict (.ctr k) k s)
      (finishJob k (ceilDiv s.buf0.len (s.slot k).bs)
        (blocksLoop (ctrBody k s.buf0.addr s.buf1.addr s.buf0.len (s.slot k).bs) (ceilDiv s.buf0.len (s.slot k).bs) 0
          ⟨s.loadIv k (firstCounter s s.buf2 (s.slot k).bs), 0⟩)) :=
  ctrCommand_runsAs ctrBody (.inl rfl) fun _ => rfl

/-- The model's `M` of `CTR_ACPKM` is that of R181. -/
theorem acpkmBlocks_eq : acpkmBlocks (ceilDiv s.buf0.len (s.slot k).bs) s.extra (s.slot k).derivationBlocks =
    blocksNeeded (.ctrAcpkm k) s := by
  by_cases h : ceilDiv s.buf0.len (s.slot k).bs = 0 <;>
    simp [acpkmBlocks, blocksNeeded, Slot.derivationBlocks, h, Nat.one_le_iff_ne_zero]

theorem execCtrAcpkm_runsAs :
    RunsAs (execCtrAcpkm k s) s (some k) (modeVerdict (.ctrAcpkm k) k s)
      (finishJob k (blocksNeeded (.ctrAcpkm k) s)
        (blocksLoop (acpkmBody s.extra k s.buf0.addr s.buf1.addr s.buf0.len (s.slot k).bs)
          (ceilDiv s.buf0.len (s.slot k).bs) 0 ⟨s.loadIv k (firstCounter s s.buf2 (s.slot k).bs), 0⟩)) := by
  rw [execCtrAcpkm, acpkmBlocks_eq]
  refine ctrCommand_runsAs (acpkmBody s.extra) (.inr rfl) fun cs => ?_
  simp only [zeroLength, List.cons_append, List.nil_append, verdictOf_firstStop_cons, decide_eq_true_eq, beq_iff_eq]
  rfl

theorem execCmac_runsAs :
    RunsAs (execCmac k s) s (some k) (modeVerdict (.cmac k) k s)
      (finishJob k (cmacBlocks s.buf0.len (s.slot k).bs)
        (cmacJob k s.buf0.addr s.buf0.len s.buf1.addr s.extra (s.slot k).bs ⟨s, 0⟩)) := by
  refine ⟨_, rfl, modeVerdict_eq_of_checks (fun cs => ?_) ?_ ?_⟩
  · simp only [operandVerdict, zeroLength, unaligned, badIv, badTag, List.cons_append, List.nil_append,
      verdictOf_firstStop_cons, decide_eq_true_eq, beq_iff_eq, gt_iff_lt]
    rfl
  · simp only [longEnough, not_tooShort]
  · rw [not_partialOverlap]
    exact (Bool.and_true _).symm

/-- Every mode command ends in what its job ends in, once its checks have passed. -/
theorem exec_mode {i : Instr} (hi : i.modeSlot = some k) :
    ∃ m r, RunsAs (exec i s) s (some k) (modeVerdict i k s) (finishJob k m r) := by
  cases i <;> cases hi
  case ecbEnc => exact ⟨_, _, ecbCommand_runsAs .encrypt⟩
  case ecbDec => exact ⟨_, _, ecbCommand_runsAs .decrypt⟩
  case cbcEnc => exact ⟨_, _, cbcCommand_runsAs cbcEncBody⟩
  case cbcDec => exact ⟨_, _, cbcCommand_runsAs cbcDecBody⟩
  case ctr => exact ⟨_, _, execCtr_runsAs⟩
  case ctrAcpkm => exact ⟨_, _, execCtrAcpkm_runsAs⟩
  case cmac => exact ⟨_, _, execCmac_runsAs⟩

/-- A command that makes block calls ends with success or `LowKeyResource`. -/
theorem finishJob_res (m : Nat) (r : Except Job Job) : (finishJob k m r).res = 0 ∨ (finishJob k m r).res = 8 := by
  cases r with
  | ok j => exact .inl rfl
  | error j => exact .inr rfl

/-- A host command whose code is not `Faulted` has set no fault. -/
theorem exec_host_fault {i : Instr} {t : State} (hi : i.hostIssuable = true) (hf : s.fault = false)
    (h : exec i s = .next t) (hres : t.res ≠ 0xFE) : t.fault = false := by
  obtain ⟨hf', -⟩ | ⟨-, c, rfl⟩ | ⟨-, u, err, done, req, rfl, hu⟩ := exec_host_cases hi h
  · exact absurd (hf.symm.trans hf') (by decide)
  · exact absurd rfl hres
  · exact hu.fault.trans hf

/-- The mode commands are host commands. -/
theorem hostIssuable_of_modeSlot {i : Instr} (hi : i.modeSlot = some k) : i.hostIssuable = true := by
  revert hi
  cases i <;> simp [Instr.modeSlot, Instr.hostIssuable]

/-- Settles O11: the verdict of R180 is that of each mode's list of checks, and past them only the job decides. -/
theorem modePrechecks : Obligations.ModePrechecks := by
  intro i k s hi hf
  obtain ⟨m, r, hrun⟩ := exec_mode (s := s) hi
  have hres := finishJob_res (k := k) m r
  refine ⟨hrun.ends hf fun hv => ?_, fun hv => ⟨_, hrun.passes hf hv, hres⟩⟩
  refine exec_host_fault (hostIssuable_of_modeSlot hi) hf (hrun.passes hf hv) fun hfe => ?_
  obtain h | h := hres <;> exact absurd (h.symm.trans hfe) (by decide)

end
end Sys2Proof.Machine
end

section
/-! ### The checks of the builder commands, in order (40_table_builder.md R107) -/

namespace Sys2Proof.Machine

section
variable {s : State}

/-- The verdict when the null check of a command that reads one buffer and writes 256 bytes heads its list. -/
theorem verdictOf_builderChecks {i : Instr} {lengthErrors : List Check}
    (hlength : ∀ cs, verdictOf (firstStop (lengthErrors ++ cs)) = builderLength i s (verdictOf (firstStop cs))) :
    verdictOf (firstStop (builderChecks s lengthErrors)) =
      if ¬ s.buf0.Present ∨ s.buf1.addr = 0 then .error 1 0
      else
        builderLength i s
          (contractVerdict s.par.memSize [s.buf0, s.buf1] (decide (256 ≤ s.buf1.len))
            (decide (s.buf0.AliasOrApart s.buf1.addr 256)) .go) := by
  rw [builderChecks, List.append_assoc, List.cons_append, List.nil_append, verdictOf_firstStop_cons, hlength,
    verdictOf_contractChecks, not_tooShort, not_partialOverlap]
  simp only [Bool.or_eq_true, decide_eq_true_eq, Buffer.missing_eq_true]
  rfl

/-! #### The result registers of a command without block calls -/

/-- `t` is the end of a command that made no block calls and names no slot (R107). -/
def State.NoBlocks (t : State) : Prop := t.fault = false ∧ t.rDone = 0 ∧ t.rReq = 0 ∧ t.rLeft = 0

theorem State.noBlocks_conclude (hf : s.fault = false) (err : Byte) : (s.conclude none err 0 0).NoBlocks :=
  ⟨hf, rfl, rfl, rfl⟩

theorem noBlocks_installTables (hf : s.fault = false) (m : Matrix16) (p : ByteTable) : (s.installTables m p).NoBlocks := by
  unfold State.installTables
  split
  · exact s.noBlocks_conclude hf _
  split
  · exact s.noBlocks_conclude hf _
  · exact State.noBlocks_conclude (by exact hf) _

/-! #### The builder commands -/

/-- A builder command on `s`: its list of checks has the verdict of R107, and an end behind it makes no block calls. -/
def BuilderRuns (i : Instr) (s : State) : Prop :=
  ∃ e, RunsAs (exec i s) s none (builderVerdict i s) e ∧ e.NoBlocks

theorem genMatrix_runs (hf : s.fault = false) : BuilderRuns .genMatrix s := by
  refine ⟨_, ⟨_, rfl, ?_⟩, State.noBlocks_conclude (s := s.store _ _ _) hf codeSuccess⟩
  refine (verdictOf_builderChecks fun cs => ?_).symm
  simp only [List.cons_append, List.nil_append, verdictOf_firstStop_cons, decide_eq_true_eq]
  rfl

theorem invMatrix_runs (hf : s.fault = false) : BuilderRuns .invMatrix s := by
  refine ⟨_, ⟨_, rfl, ?_⟩, ?_⟩
  · refine (verdictOf_builderChecks fun cs => ?_).symm
    simp only [List.cons_append, List.nil_append, verdictOf_firstStop_cons, decide_eq_true_eq]
    rfl
  · split <;> exact State.noBlocks_conclude (by exact hf) _

theorem invPerm_runs (hf : s.fault = false) : BuilderRuns .invPerm s := by
  refine ⟨_, ⟨_, rfl, ?_⟩, ?_⟩
  · refine (verdictOf_builderChecks fun cs => ?_).symm
    simp only [List.cons_append, List.nil_append, verdictOf_firstStop_cons, decide_eq_true_eq]
    rfl
  · split <;> exact State.noBlocks_conclude (by exact hf) _

theorem initTables_runs (hf : s.fault = false) : BuilderRuns .initTables s := by
  refine ⟨_, ⟨_, rfl, ?_⟩, noBlocks_installTables hf _ _⟩
  simp only [builderVerdict, List.cons_append, List.nil_append, verdictOf_firstStop_cons, verdictOf_contractChecks,
    Bool.or_eq_true, decide_eq_true_eq, Buffer.missing_eq_true]
  rfl

/-- The error of an absent variant (R118), which the model raises in the effect, is read as the one check of the command. -/
theorem initDefault_runs (hf : s.fault = false) (variant : Variant) : BuilderRuns (.initDefault variant) s := by
  cases hv : variantTables s.par.profile variant with
  | none =>
    have hexec : exec (.initDefault variant) s = .next (s.conclude none (errorCode .invalidParameter) 0 0) := by
      simp only [exec, execInitDefault, hv]
      exact command_passes hf rfl
    have hstop : firstStop [⟨true, .error .invalidParameter 0⟩] = some (.error .invalidParameter 0) := rfl
    refine ⟨s.conclude none 0 0 0, ⟨_, hexec.trans (command_stops hf hstop).symm, ?_⟩, s.noBlocks_conclude hf 0⟩
    simp only [builderVerdict, hv]
    rfl
  | some tables =>
    refine ⟨s.installTables (matrixOf s.par.profile.poly tables.1) tables.2, ⟨[], ?_, ?_⟩, noBlocks_installTables hf _ _⟩
    · simp only [exec, execInitDefault, hv]
    · simp only [builderVerdict, hv]
      rfl

/-- The blocks requested that a verdict knows of. -/
def Verdict.requests : Verdict → Nat
  | .error _ req => req
  | .fault _ | .refuse _ | .go => 0

@[simp] theorem Verdict.requests_error (code req : Nat) : (Verdict.error code req).requests = req := rfl
@[simp] theorem Verdict.requests_go : Verdict.go.requests = 0 := rfl
@[simp] theorem Verdict.requests_ite (p : Prop) [Decidable p] (a b : Verdict) :
    (if p then a else b).requests = if p then a.requests else b.requests := apply_ite _ _ _ _

/-- No check of a builder command knows of a block it requests (R107). -/
theorem builderVerdict_requests (i : Instr) (s : State) : (builderVerdict i s).requests = 0 := by
  have hcontract : ∀ enough apart, (contractVerdict s.par.memSize [s.buf0, s.buf1] enough apart .go).requests = 0 := by
    intro enough apart
    unfold contractVerdict
    split_ifs <;> rfl
  have hlength : ∀ rest : Verdict, rest.requests = 0 → (builderLength i s rest).requests = 0 := by
    intro rest hrest
    unfold builderLength
    split <;> simp [hrest]
  unfold builderVerdict
  split <;> simp only [Verdict.requests_ite, Verdict.requests_error, Verdict.requests_go, hcontract, hlength, ite_self]

/-- A builder command ends as its verdict says, and every end but a fault has made no block calls. -/
theorem BuilderRuns.ends {i : Instr} (h : BuilderRuns i s) (hf : s.fault = false) :
    (builderVerdict i s).Ends s none (exec i s) ∧
    ∀ t, exec i s = .next t → t.fault = false → t.rDone = 0 ∧ t.rReq = 0 ∧ t.rLeft = 0 := by
  obtain ⟨e, hrun, hef, hzero⟩ := h
  refine ⟨hrun.ends hf fun _ => hef, fun t ht htf => ?_⟩
  obtain ⟨cs, hexec, hv⟩ := hrun
  obtain ⟨hf', -⟩ | ⟨-, err, req, hc, rfl⟩ | ⟨-, c, -, rfl⟩ | ⟨-, -, rfl⟩ := command_cases (hexec ▸ ht)
  · exact absurd (hf.symm.trans hf') (by decide)
  · have hreq : req = 0 := by
      simpa only [hv, hc, verdictOf, Verdict.requests_error] using builderVerdict_requests i s
    rw [hreq]
    exact ⟨rfl, rfl, rfl⟩
  · cases htf
  · exact hzero

end
end Sys2Proof.Machine

namespace Sys2Proof

open Machine in
/-- Settles O12, command by command. -/
theorem builderChecks : Obligations.BuilderChecks := by
  intro i s hi hf
  refine BuilderRuns.ends ?_ hf
  simp only [List.mem_cons, List.not_mem_nil, or_false] at hi
  obtain rfl | rfl | rfl | rfl | rfl | rfl := hi
  · exact genMatrix_runs hf
  · exact invMatrix_runs hf
  · exact invPerm_runs hf
  · exact initTables_runs hf
  · exact initDefault_runs hf .standard
  · exact initDefault_runs hf .compat

end Sys2Proof
end

section
/-! ### ECB, and CBC decryption (43_modes.md R185 to R190)

After `i` blocks of a mode that works block by block the state is known: `i` units of the counter are spent, the first `i`
blocks of the output hold their images, and every other byte reads as before. An input block is read before its place is
written, in place or not, so it reads as it did before the command. -/

namespace Sys2Proof.Machine

/-! #### What passed checks give -/

/-- The contract's verdict is to go on exactly when each of its checks passes and so does the rest. -/
theorem contractVerdict_eq_go {size : Nat} {buffers : List Buffer} {enough apart : Bool} {rest : Verdict} :
    contractVerdict size buffers enough apart rest = .go ↔
      (∀ b ∈ buffers, b.InRange size) ∧ enough = true ∧ apart = true ∧ rest = .go := by
  unfold contractVerdict
  split_ifs <;> simp_all

/-- Past its checks a mode command has an aligned input, a good IV and a well placed output. -/
theorem operands_of_modeVerdict {i : Instr} {k : SlotId} {s : State} (h : modeVerdict i k s = .go) :
    unaligned i s = false ∧ badIv i s = false ∧ wellPlaced i s = true := by
  unfold modeVerdict at h
  split_ifs at h with h1 h2 h3 h4 h5 h6 h7 h8
  all_goals
    obtain ⟨-, -, hplace, -⟩ := contractVerdict_eq_go.mp h
    exact ⟨Bool.eq_false_iff.mpr h6, Bool.eq_false_iff.mpr h7, hplace⟩

theorem Slot.Shape.bs_pos {sl : Slot} (h : sl.Shape) : 0 < sl.bs := by
  obtain hb | hb := h.blockSize <;> simp [Slot.bs, hb]

theorem Slot.Shape.bs_le {sl : Slot} (h : sl.Shape) : sl.bs ≤ 16 := by
  obtain hb | hb := h.blockSize <;> simp [Slot.bs, hb]

/-- What the checks of a mode command over whole blocks give: `m` blocks of input, to be written at their own place or apart from
all of the input. -/
structure WholeBlocks (s : State) (k : SlotId) (m : Nat) : Prop where
  bs_pos : 0 < (s.slot k).bs
  len : s.buf0.len = m * (s.slot k).bs
  place : s.buf0.AliasOrApart s.buf1.addr s.buf0.len
  counter : m ≤ (s.slot k).resourceCounter.toNat

theorem WholeBlocks.len_eq_zero {s : State} {k : SlotId} {m : Nat} (h : WholeBlocks s k m) : s.buf0.len = 0 ↔ m = 0 := by
  rw [h.len, Nat.mul_eq_zero, or_iff_left h.bs_pos.ne']

/-! #### Bytes and blocks of memory -/

section
variable {s : State}

/-- A block reads as before where all its bytes do. -/
theorem State.load_congr {t : State} {addr n : Nat} (h : ∀ a, addr ≤ a → a < addr + n → t.byte a = s.byte a) :
    t.load addr n = s.load addr n := Memory.readBytes_congr h

theorem State.byte_store_outside {addr n : Nat} (v : List Byte) {a : Nat} (h : a < addr ∨ addr + n ≤ a) :
    (s.store addr n v).byte a = s.byte a := by
  have hlen : (v.take n).length ≤ n := List.length_take_le n v
  exact Memory.read_writeBytes_outside s.mem addr (v.take n) (by omega)

/-- A whole block that has been stored is what is read back. -/
theorem State.load_store_same {addr n : Nat} {v : List Byte} (h : v.length = n) : (s.store addr n v).load addr n = v := by
  subst h
  rw [State.load, State.store_mem, List.take_length]
  exact Memory.readBytes_writeBytes _ _ _

end

/-! #### A loop with an invariant -/

/-- A loop whose body takes the invariant of block `i` to that of block `i + 1` ends with the invariant of block `n`. -/
theorem blocksLoop_ok {body : Nat → Job → Except Job Job} {I : Nat → Job → Prop} {m : Nat}
    (hbody : ∀ i j, i < m → I i j → ∃ j', body i j = .ok j' ∧ I (i + 1) j') :
    ∀ (n i : Nat) (j : Job), i + n = m → I i j → ∃ j', blocksLoop body n i j = .ok j' ∧ I m j' := by
  intro n
  induction n with
  | zero => rintro i j rfl hj; exact ⟨j, rfl, hj⟩
  | succ n ih =>
    intro i j hm hj
    obtain ⟨j1, hb, hj1⟩ := hbody i j (by omega) hj
    simp only [blocksLoop, hb]
    exact ih (i + 1) j1 (by omega) hj1

/-! #### The state between two blocks -/

/-- The job `j` of a command on `s` after `i` blocks: the slot is `sl i`, the blocks of the output so far are `out`, and every other
byte of memory and all other state are those of `s`. -/
structure AfterBlocks (s : State) (k : SlotId) (sl : Nat → Slot) (out : Nat → List Byte) (i : Nat) (j : Job) : Prop where
  done : j.done = i
  state : j.st = { s with mem := j.st.mem }.setSlot k (sl i)
  block : ∀ n, n < i → j.st.block s.buf1.addr (s.slot k).bs n = out n
  byte : ∀ a, (a < s.buf1.addr ∨ s.buf1.addr + i * (s.slot k).bs ≤ a) → j.st.byte a = s.byte a

section
variable {s : State} {k : SlotId} {sl : Nat → Slot} {out : Nat → List Byte} {i m : Nat} {j : Job}

theorem AfterBlocks.slot (h : AfterBlocks s k sl out i j) : j.st.slot k = sl i := by
  rw [h.state, State.slot_setSlot_same]

theorem AfterBlocks.par (h : AfterBlocks s k sl out i j) : j.st.par = s.par := by rw [h.state]; rfl

theorem AfterBlocks.tbl (h : AfterBlocks s k sl out i j) : j.st.tbl = s.tbl := by rw [h.state]; rfl

/-- No block has been written before the first. -/
theorem AfterBlocks.first (s : State) (k : SlotId) (sl : Nat → Slot) (out : Nat → List Byte) :
    AfterBlocks s k sl out 0 ⟨s.setSlot k (sl 0), 0⟩ where
  done := rfl
  state := rfl
  block n hn := absurd hn n.not_lt_zero
  byte _ _ := rfl

/-- The input block that comes next reads as it did before the command. -/
theorem AfterBlocks.input (h : AfterBlocks s k sl out i j) (hw : WholeBlocks s k m) (hi : i < m) :
    j.st.load (s.buf0.addr + i * (s.slot k).bs) (s.slot k).bs = s.block s.buf0.addr (s.slot k).bs i := by
  have hend : (i + 1) * (s.slot k).bs ≤ s.buf0.len := hw.len ▸ Nat.mul_le_mul_right _ hi
  rw [Nat.succ_mul] at hend
  refine State.load_congr fun a h1 h2 => h.byte a ?_
  obtain hal | hap := hw.place
  · omega
  · obtain h0 | h0 | h0 | h0 := hap <;> omega

/-- The call for the next block finds the counter above 0. -/
theorem AfterBlocks.blockCall (h : AfterBlocks s k sl out i j) (dir : Direction) (b : List Byte)
    (hc : (sl i).resourceCounter ≠ 0) :
    blockCall dir k b j =
      .ok (⟨j.st.setSlot k { sl i with resourceCounter := (sl i).resourceCounter - 1 }, j.done + 1⟩,
        blockOp dir s.par s.tbl (sl i) b) := by
  rw [← h.slot] at hc
  rw [blockCall_counts hc, h.slot, h.par, h.tbl]

/-- Storing the next output block. -/
theorem AfterBlocks.next (h : AfterBlocks s k sl out i j) (hlen : (out i).length = (s.slot k).bs) :
    AfterBlocks s k sl out (i + 1)
      ⟨(j.st.setSlot k (sl (i + 1))).store (s.buf1.addr + i * (s.slot k).bs) (s.slot k).bs (out i), j.done + 1⟩ where
  done := congrArg (· + 1) h.done
  state := by
    rw [h.state]
    simp [State.store, State.setSlot]
  block n hn := by
    obtain rfl | hlt := Nat.eq_or_lt_of_le (Nat.lt_succ_iff.mp hn)
    · exact State.load_store_same hlen
    · have hle : (n + 1) * (s.slot k).bs ≤ i * (s.slot k).bs := Nat.mul_le_mul_right _ hlt
      rw [Nat.succ_mul] at hle
      refine (State.load_congr fun a h1 h2 => ?_).trans (h.block n hlt)
      exact State.byte_store_outside _ (by omega)
  byte a ha := by
    rw [Nat.succ_mul] at ha
    refine (State.byte_store_outside _ (by omega)).trans (h.byte a (by omega))

/-- The end of a command whose `m` blocks have all been written. -/
theorem AfterBlocks.finish (h : AfterBlocks s k sl out m j) (hp : (sl m).present = true) :
    finishJob k m (.ok j) = s.done k (sl m) j.st.mem m := by
  rw [finishJob, h.done, h.state, State.succeed_setSlot hp]
  rfl

end

/-! #### The counter and the chain of a slot -/

/-- A unit spent after `n` others, all of them there to spend. -/
theorem counter_spend {c : BitVec 64} {n m : Nat} (hn : n < m) (hm : m ≤ c.toNat) :
    c - BitVec.ofNat 64 n ≠ 0 ∧ c - BitVec.ofNat 64 n - 1 = c - BitVec.ofNat 64 (n + 1) := by
  have hc := c.isLt
  constructor <;> bv_omega

/-- The slot with `n` units of its counter spent. -/
def Slot.spent (sl : Slot) (n : Nat) : Slot :=
  { sl with resourceCounter := sl.resourceCounter - BitVec.ofNat 64 n }

/-- One unit more. -/
theorem Slot.spent_spend (sl : Slot) {n m : Nat} (hn : n < m) (hm : m ≤ sl.resourceCounter.toNat) :
    { sl.spent n with resourceCounter := (sl.spent n).resourceCounter - 1 } = sl.spent (n + 1) := by
  simp only [Slot.spent, (counter_spend hn hm).2]

theorem Slot.after_spend (sl : Slot) (b : List Byte) {n m : Nat} (hn : n < m) (hm : m ≤ sl.resourceCounter.toNat) :
    { sl.after n b with resourceCounter := (sl.after n b).resourceCounter - 1 } = sl.after (n + 1) b := by
  simp only [Slot.after, (counter_spend hn hm).2]

theorem Slot.spent_zero (sl : Slot) : sl.spent 0 = sl := by simp [Slot.spent]

section
variable {sl : Slot} {b c : List Byte}

/-- Loading an IV of one block leaves it in `iv_buffer`, nothing spent. -/
theorem Slot.loadIv_eq_after (hb : b.length = sl.bs) : sl.loadIv b = sl.after 0 b := by
  simp [Slot.loadIv, Slot.after, ivField, hb, Slot.bs]

/-- A chain block takes the place of one of the same length. -/
theorem Slot.setChain_after (n : Nat) (h : b.length = c.length) : (sl.after n b).setChain c = sl.after n c := by
  simp only [Slot.setChain, Slot.after, ivField, Slot.mk.injEq, true_and, and_true]
  refine Vector.ext fun i hi => ?_
  simp only [Vector.getElem_ofFn, Fin.getElem_fin]
  split
  · next hlt => rw [List.getD_eq_getElem _ _ hlt]
  · next hlt => rw [List.getD_eq_default _ _ (by omega), List.getD_eq_default _ _ (by omega)]

/-- The chain block of a slot is the block left in `iv_buffer`. -/
theorem Slot.chain_after (n : Nat) (h : b.length ≤ 64) : (sl.after n b).chain b.length = b := by
  refine List.ext_getElem ?_ fun i h1 h2 => ?_
  · simp [Slot.chain, Slot.after, h]
  · simp [Slot.chain, Slot.after, ivField, h2]

end

/-! #### ECB -/

section
variable {s : State} {k : SlotId}

/-- A mode over whole blocks that is ready. -/
theorem WholeBlocks.of_ready {i : Instr} (hi : i = .ecbEnc k ∨ i = .cbcDec k) (h : ModeReady i k s) :
    WholeBlocks s k (s.buf0.len / (s.slot k).bs) := by
  obtain ⟨⟨-, -, hshape, -⟩, hv, hc⟩ := h
  obtain ⟨hal, -, hplace⟩ := operands_of_modeVerdict hv
  have hplace' : s.buf0.AliasOrApart s.buf1.addr (outBytes i s) :=
    of_decide_eq_true (Bool.and_eq_true_iff.mp hplace).1
  have hmod : s.buf0.len % (s.slot k).bs = 0 := by
    obtain rfl | rfl := hi <;> simpa [unaligned] using hal
  have hlen := (Nat.div_mul_cancel (Nat.dvd_of_mod_eq_zero hmod)).symm
  obtain rfl | rfl := hi <;> exact ⟨hshape.bs_pos, hlen, hplace', hc⟩

/-- One block of ECB. -/
theorem ecbBody_afterBlocks {dir : Direction} {m i : Nat} {j : Job} (hw : WholeBlocks s k m) (hshape : (s.slot k).Shape)
    (hi : i < m)
    (h : AfterBlocks s k (s.slot k).spent
      (fun n => blockOp dir s.par s.tbl (s.slot k) (s.block s.buf0.addr (s.slot k).bs n)) i j) :
    ∃ j', ecbBody dir k s.buf0.addr s.buf1.addr (s.slot k).bs i j = .ok j' ∧
      AfterBlocks s k (s.slot k).spent
        (fun n => blockOp dir s.par s.tbl (s.slot k) (s.block s.buf0.addr (s.slot k).bs n)) (i + 1) j' := by
  refine ⟨_, ?_, h.next (blockOp_length hshape _)⟩
  rw [ecbBody, h.input hw hi, h.blockCall dir _ (counter_spend hi hw.counter).1, Slot.spent_spend _ hi hw.counter]
  rfl

/-- `ECB_ENC` and `ECB_DEC` in one (R186, R187). -/
theorem ecbCommand_result (dir : Direction) (h : ModeReady (.ecbEnc k) k s) :
    ∃ t, ecbCommand dir k s = .next t ∧
      t = s.done k ((s.slot k).spent (s.buf0.len / (s.slot k).bs)) t.mem (s.buf0.len / (s.slot k).bs) ∧
      (∀ n, n < s.buf0.len / (s.slot k).bs →
        t.block s.buf1.addr (s.slot k).bs n =
          blockOp dir s.par s.tbl (s.slot k) (s.block s.buf0.addr (s.slot k).bs n)) ∧
      ∀ a, (a < s.buf1.addr ∨ s.buf1.addr + s.buf0.len ≤ a) → t.byte a = s.byte a := by
  have hw := WholeBlocks.of_ready (.inl rfl) h
  obtain ⟨⟨hf, hp, hshape, -⟩, hv, -⟩ := h
  have hfirst := AfterBlocks.first s k (s.slot k).spent
    fun n => blockOp dir s.par s.tbl (s.slot k) (s.block s.buf0.addr (s.slot k).bs n)
  rw [Slot.spent_zero, State.setSlot_slot] at hfirst
  obtain ⟨j, hloop, hj⟩ := blocksLoop_ok (fun i j hi hj => ecbBody_afterBlocks hw hshape hi hj) _ 0 _ (Nat.zero_add _) hfirst
  have hexec := (ecbCommand_runsAs dir).passes hf hv
  rw [hloop, hj.finish hp] at hexec
  exact ⟨_, hexec, rfl, hj.block, fun a ha => hj.byte a (hw.len ▸ ha)⟩

/-- Settles O35: after `i` blocks the first `i` output blocks are the images of the input blocks as they were. -/
theorem ecbResult : Obligations.EcbResult :=
  ⟨fun _ _ h => ecbCommand_result .encrypt h, fun _ _ h => ecbCommand_result .decrypt h⟩

/-! #### CBC decryption -/

/-- The block that `CBC_DEC` combines with the decryption of block `n`: input block `n - 1`, the IV for `n = 0` (R190). -/
def State.cipherChain (s : State) (k : SlotId) (n : Nat) : List Byte :=
  if n = 0 then s.block s.buf2.addr (s.slot k).bs 0 else s.block s.buf0.addr (s.slot k).bs (n - 1)

theorem State.length_cipherChain (n : Nat) : (s.cipherChain k n).length = (s.slot k).bs := by
  unfold State.cipherChain
  split <;> simp [State.load]

/-- Output block `n` of `CBC_DEC`. -/
def State.cbcPlain (s : State) (k : SlotId) (n : Nat) : List Byte :=
  xorBytes (s.decrypts k (s.block s.buf0.addr (s.slot k).bs n)) (s.cipherChain k n)

theorem State.length_cbcPlain (hshape : (s.slot k).Shape) (n : Nat) : (s.cbcPlain k n).length = (s.slot k).bs := by
  have hd : (s.decrypts k (s.block s.buf0.addr (s.slot k).bs n)).length = (s.slot k).bs :=
    blockOp_length (dir := .decrypt) hshape _
  rw [State.cbcPlain, xorBytes, List.length_zipWith, hd, State.length_cipherChain, Nat.min_self]

/-- One block of CBC decryption. -/
theorem cbcDecBody_afterBlocks {m i : Nat} {j : Job} (hw : WholeBlocks s k m) (hshape : (s.slot k).Shape) (hi : i < m)
    (h : AfterBlocks s k (fun n => (s.slot k).after n (s.cipherChain k n)) (s.cbcPlain k) i j) :
    ∃ j', cbcDecBody k s.buf0.addr s.buf1.addr (s.slot k).bs i j = .ok j' ∧
      AfterBlocks s k (fun n => (s.slot k).after n (s.cipherChain k n)) (s.cbcPlain k) (i + 1) j' := by
  have hlen := State.length_cipherChain (s := s) (k := k)
  have hread : (j.st.slot k).chain (s.slot k).bs = s.cipherChain k i := by
    rw [h.slot, ← hlen i]
    exact Slot.chain_after i (by rw [hlen]; exact hshape.bs_le.trans (by decide))
  have hleft : ((s.slot k).after (i + 1) (s.cipherChain k i)).setChain (s.block s.buf0.addr (s.slot k).bs i) =
      (s.slot k).after (i + 1) (s.cipherChain k (i + 1)) :=
    Slot.setChain_after _ ((hlen i).trans (hlen (i + 1)).symm)
  refine ⟨_, ?_, h.next (State.length_cbcPlain hshape i)⟩
  simp only [cbcDecBody]
  rw [h.input hw hi, h.blockCall .decrypt _ (counter_spend hi hw.counter).1, Slot.after_spend _ _ hi hw.counter, hread]
  simp only [State.slot_setSlot_same, State.setSlot_setSlot, hleft]
  rfl

/-- Settles O37: each input block stands in `iv_buffer` when the next one is decrypted, whatever has been written since. -/
theorem cbcDecResult : Obligations.CbcDecResult := by
  intro s k h
  have hw := WholeBlocks.of_ready (.inr rfl) h
  obtain ⟨⟨hf, hp, hshape, -⟩, hv, -⟩ := h
  have hfirst := AfterBlocks.first s k (fun n => (s.slot k).after n (s.cipherChain k n)) (s.cbcPlain k)
  have hload : s.setSlot k ((s.slot k).after 0 (s.cipherChain k 0)) = s.loadIv k (s.load s.buf2.addr (s.slot k).bs) := by
    rw [State.loadIv, Slot.loadIv_eq_after (by simp [State.load])]
    simp [State.cipherChain, State.block]
  rw [hload] at hfirst
  obtain ⟨j, hloop, hj⟩ := blocksLoop_ok (fun i j hi hj => cbcDecBody_afterBlocks hw hshape hi hj) _ 0 _ (Nat.zero_add _) hfirst
  have hexec := (cbcCommand_runsAs cbcDecBody).passes hf hv
  rw [hloop, hj.finish (by exact hp)] at hexec
  refine ⟨_, hexec, ?_, hj.block, fun a ha => hj.byte a (hw.len ▸ ha)⟩
  simp only [hw.len_eq_zero]
  rfl

end

end Sys2Proof.Machine
end

section
/-! ### The decoder and the encoder undo each other (30_encoding.md R81 to R86, R90) -/

namespace Sys2Proof

/-! #### The fields of a packed word (R81) -/

section
variable (op : BitVec 8) (slot sel : BitVec 4) (imm : BitVec 16)

@[simp] theorem fieldOp_packWord : fieldOp (packWord op slot sel imm) = op :=
  BitVec.extractLsb'_append_eq_right

@[simp] theorem fieldSlot_packWord : fieldSlot (packWord op slot sel imm) = slot :=
  (BitVec.extractLsb'_append_eq_of_le (by decide)).trans BitVec.extractLsb'_append_eq_right

@[simp] theorem fieldSel_packWord : fieldSel (packWord op slot sel imm) = sel :=
  (BitVec.extractLsb'_append_eq_of_le (by decide)).trans
    ((BitVec.extractLsb'_append_eq_of_le (by decide)).trans BitVec.extractLsb'_append_eq_right)

@[simp] theorem fieldImm_packWord : fieldImm (packWord op slot sel imm) = imm :=
  (BitVec.extractLsb'_append_eq_of_le (by decide)).trans
    ((BitVec.extractLsb'_append_eq_of_le (by decide)).trans BitVec.extractLsb'_append_eq_left)

end

/-- A word is packed from the four fields it has. -/
theorem packWord_eq_iff {w : BitVec 32} {op : BitVec 8} {slot sel : BitVec 4} {imm : BitVec 16} :
    packWord op slot sel imm = w ↔ fieldOp w = op ∧ fieldSlot w = slot ∧ fieldSel w = sel ∧ fieldImm w = imm := by
  simp only [word_eq_iff, fieldOp_packWord, fieldSlot_packWord, fieldSel_packWord, fieldImm_packWord, eq_comm]

@[simp] theorem slotOf_ofFin (k : SlotId) : slotOf (BitVec.ofFin k) = k := rfl

@[simp] theorem ofFin_slotOf (f : BitVec 4) : BitVec.ofFin (slotOf f) = f := rfl

/-! #### Decoding what was encoded -/

/-- Settles O1, constructor by constructor: the decoder reads the fields that the encoder packed. -/
theorem decodeEncode : Obligations.DecodeEncode := by
  intro i hi
  cases i with
  | initDefault variant => cases variant <;> simp [encode, decode, decodeCommand, variantOf, whenZero]
  | bind slot kind => cases kind <;> simp [encode, decode, decodeCommand, bindKindOf, whenZero]
  | create slot n | setKeyRandom slot n =>
    have hn : n < 65536 := of_decide_eq_true hi
    simp [encode, decode, decodeCommand, whenZero, hn]
  | genMatrix | invMatrix | invPerm | initTables => simp [encode, decode, decodeCommand, whenZero]
  | setKey slot | deriveNext slot | destroy slot | ecbEnc slot | ecbDec slot | cbcEnc slot | cbcDec slot | ctr slot
  | ctrAcpkm slot | cmac slot => simp [encode, slotWord, decode, decodeCommand, whenZero]
  | encryptBlock | decryptBlock | scheduleKeys | eraseKeys => rfl
  | addRoundKey | subBytes | linear | linearLast | invSubBytes | invLinear | invLinearLast | roundT | invRoundT
  | shiftRows | mixColumns | invShiftRows | invMixColumns | lfsrStep => rfl

/-- Settles O4: each of the nine legal codes is that of its instruction; the three illegal words are evaluated. -/
theorem sampleWordsDecode : Obligations.SampleWordsDecode :=
  ⟨decodeEncode .genMatrix rfl, decodeEncode (.initDefault .compat) rfl, decodeEncode (.create 3 16) rfl,
    decodeEncode (.bind 3 .b16t) rfl, decodeEncode (.setKeyRandom 3 32) rfl, decodeEncode (.cmac 15) rfl,
    decodeEncode (.cbcEnc 2) rfl, decodeEncode .scheduleKeys rfl, decodeEncode .lfsrStep rfl, rfl, rfl, rfl⟩

/-! #### Encoding what was decoded -/

/-- The zero fields are zero and the instruction is the row's. -/
theorem whenZero_eq_ok_iff {zero : Bool} {i j : Instr} : whenZero zero i = .ok j ↔ zero = true ∧ i = j := by
  cases zero <;> simp [whenZero]

theorem variantOf_eq_some {sel : BitVec 4} {variant : Variant} (h : variantOf sel = some variant) :
    (variant = .standard ∧ sel = 0) ∨ (variant = .compat ∧ sel = 1) := by
  cases variant <;> revert sel <;> decide

theorem bindKindOf_eq_some {sel : BitVec 4} {kind : BindKind} (h : bindKindOf sel = some kind) :
    (kind = .b8 ∧ sel = 1) ∨ (kind = .b16t ∧ sel = 2) ∨ (kind = .b16p ∧ sel = 3) := by
  cases kind <;> revert sel <;> decide

/-- A command word is the code of the instruction it decodes to: every field is read or checked. -/
theorem encode_decodeCommand {w : BitVec 32} {i : Instr} (h : decodeCommand w = .ok i) :
    encode i = .command w ∧ i.wellFormed = true := by
  have himm : (fieldImm w).toNat < 65536 := (fieldImm w).isLt
  unfold decodeCommand at h
  split at h
  case h_5 hop =>
    cases hv : variantOf (fieldSel w) with
    | none => simp [hv] at h
    | some variant =>
      simp only [hv, whenZero_eq_ok_iff, Bool.and_eq_true, decide_eq_true_eq] at h
      obtain ⟨hz, rfl⟩ := h
      obtain ⟨rfl, hsel⟩ | ⟨rfl, hsel⟩ := variantOf_eq_some hv <;>
        simp [encode, packWord_eq_iff, hop, hsel, hz, Instr.wellFormed]
  case h_7 hop =>
    cases hk : bindKindOf (fieldSel w) with
    | none => simp [hk] at h
    | some kind =>
      simp only [hk, whenZero_eq_ok_iff, decide_eq_true_eq] at h
      obtain ⟨hz, rfl⟩ := h
      obtain ⟨rfl, hsel⟩ | ⟨rfl, hsel⟩ | ⟨rfl, hsel⟩ := bindKindOf_eq_some hk <;>
        simp [encode, packWord_eq_iff, hop, hsel, hz, Instr.wellFormed]
  case h_19 => cases h
  all_goals
    next hop =>
    simp only [whenZero_eq_ok_iff, Bool.and_eq_true, decide_eq_true_eq] at h
    obtain ⟨hz, rfl⟩ := h
    simp [encode, slotWord, packWord_eq_iff, hop, hz, himm, Instr.wellFormed]

theorem encode_decodeEntry (c : BitVec 2) :
    encode (decodeEntry c) = .entry c ∧ (decodeEntry c).wellFormed = true := by
  revert c; decide

theorem encode_decodeMicro {c : BitVec 4} {i : Instr} (h : decodeMicro c = .ok i) :
    encode i = .micro c ∧ i.wellFormed = true := by
  unfold decodeMicro at h
  split at h <;> cases h <;> exact ⟨rfl, rfl⟩

/-- Whatever code decodes is the one code of its instruction. -/
theorem encode_of_decode {c : Code} {i : Instr} (h : decode c = .ok i) : encode i = c ∧ i.wellFormed = true := by
  cases c with
  | command w => exact encode_decodeCommand h
  | entry c => cases h; exact encode_decodeEntry c
  | micro c => exact encode_decodeMicro h

/-! #### The words that the opcode map selects (R81, R85) -/

/-- A row fixes `op`. -/
theorem fieldOp_of_masked {w : BitVec 32} {r : HostRow} (hr : r ∈ hostRows) (h : w &&& r.mask = r.pattern) :
    fieldOp w = fieldOp r.pattern := by
  have hmask : ∀ r ∈ hostRows, fieldOp r.mask = 0xFF#8 := by decide
  obtain ⟨hop, -⟩ := masked_eq_iff.mp h
  rwa [hmask r hr, and_full_eight] at hop

/-- Where a row's zero fields are zero, its legal values of `sel` are those that R90 does not exclude. -/
theorem sel_legal_iff : ∀ r ∈ hostRows, ∀ sel : BitVec 4, sel &&& fieldSel r.mask = fieldSel r.pattern →
    (sel ∈ r.sels ↔ ¬ ((fieldOp r.pattern = 0x05#8 ∧ variantOf sel = none) ∨
      (fieldOp r.pattern = 0x11#8 ∧ bindKindOf sel = none))) := by decide

theorem legalWord_eq_true {w : BitVec 32} :
    legalWord w = true ↔ ∃ r ∈ hostRows, w &&& r.mask = r.pattern ∧ fieldSel w ∈ r.sels := by
  simp only [legalWord, List.any_eq_true, Bool.and_eq_true, decide_eq_true_eq, List.contains_iff_mem]

/-- The words that a row selects with a legal `sel` are those that R90 does not call illegal. -/
theorem legalWord_iff_not_illegalWord (w : BitVec 32) : legalWord w = true ↔ ¬ IllegalWord w := by
  rw [legalWord_eq_true]
  refine ⟨fun ⟨r, hr, hmask, hsel⟩ => ?_, fun h => ?_⟩
  · have hop := fieldOp_of_masked hr hmask
    obtain ⟨-, -, hsel0, -⟩ := masked_eq_iff.mp hmask
    have hlegal := (sel_legal_iff r hr _ hsel0).mp hsel
    rw [illegalWord_iff_row hr hop, hop]
    exact not_or.mpr ⟨not_not.mpr hmask, hlegal⟩
  · have hmem : fieldOp w ∈ hostOps := by
      by_contra hop
      exact h (.inl hop)
    obtain ⟨r, hr, hop⟩ := exists_hostRow hmem
    rw [illegalWord_iff_row hr hop, hop, not_or, not_not] at h
    obtain ⟨hmask, hlegal⟩ := h
    obtain ⟨-, -, hsel0, -⟩ := masked_eq_iff.mp hmask
    exact ⟨r, hr, hmask, (sel_legal_iff r hr _ hsel0).mpr hlegal⟩

/-- Settles O2: no bit of a code is ignored, the legal words are the decoding ones, and a row is found by `op` alone. -/
theorem decoderIsExact : Obligations.DecoderIsExact := by
  refine ⟨fun c i => encode_of_decode, fun w => ?_, fun w r hr r' hr' h h' => ?_⟩
  · rw [legalWord_iff_not_illegalWord, illegalWord_iff]
    exact not_forall_not.symm
  · exact hostRow_unique r hr r' hr' ((fieldOp_of_masked hr h).symm.trans (fieldOp_of_masked hr' h'))

end Sys2Proof
end

section
/-! ### The stages issued alone, lane by lane (30_encoding.md R86, 40_table_builder.md R108, 42_cipher_core.md R151 to R168) -/

namespace Sys2Proof

/-! #### LFSR_STEP -/

section
variable (poly : BitVec 9) (v t : Vec16)

theorem lfsrStep_get_zero : (lfsrStep poly v t)[(0 : Fin 16)] = xorSum fun j => gfMul poly t[j] v[j] := by
  simp [lfsrStep]

theorem lfsrStep_get_succ (i : Fin 15) : (lfsrStep poly v t)[i.succ] = v[i.castSucc] := by
  simp [lfsrStep]

@[simp] theorem Vec16.zero_get (i : Nat) (hi : i < 16) : Vec16.zero[i] = 0#8 := by
  simp [Vec16.zero]

theorem lfsrStep_zero : lfsrStep poly Vec16.zero t = Vec16.zero := by
  refine Vec16.ext fun i => ?_
  induction i using Fin.cases with
  | zero => rw [lfsrStep_get_zero]; simp
  | succ i => rw [lfsrStep_get_succ]; simp

end

/-- A step of `e_15` moves nothing up, and the feedback is the last tap. -/
theorem lfsrStep_unitVec_last (poly : BitVec 9) (t : Vec16) :
    lfsrStep poly (unitVec 15) t = scaleVec poly t[15] (unitVec 0) := by
  refine Vec16.ext fun i => ?_
  rw [scaleVec_get]
  induction i using Fin.cases with
  | zero =>
    rw [lfsrStep_get_zero, xorSum_single 15]
    · rfl
    · intro i hi
      have hval : i.val ≠ 15 := fun e => hi (Fin.ext e)
      simp [hval]
  | succ i =>
    have hval : i.val ≠ 15 := i.isLt.ne
    rw [lfsrStep_get_succ]
    simp [hval]

theorem finite_vec16 : Finite Vec16 :=
  Finite.of_injective (fun (v : Vec16) (i : Fin 16) => v[i]) fun _ _ h => Vec16.ext (congrFun h)

/-- One step is invertible exactly when the last tap is not zero: else `e_15` goes to zero, as zero does (R108). -/
theorem lfsrStep_bijective_iff {poly : BitVec 9} (h : PolyOk poly) (t : Vec16) :
    Function.Bijective (fun v : Vec16 => lfsrStep poly v t) ↔ t[15] ≠ 0 := by
  constructor
  · intro hbij ht
    have hlast : lfsrStep poly (unitVec 15) t = lfsrStep poly Vec16.zero t := by
      rw [lfsrStep_unitVec_last, ht, lfsrStep_zero]
      exact Vec16.ext fun i => by simp [scaleVec]
    have hne : unitVec 15 ≠ Vec16.zero := by decide
    exact hne (hbij.injective hlast)
  · intro ht
    have hinj : Function.Injective fun v : Vec16 => lfsrStep poly v t := by
      intro v w (hvw : lfsrStep poly v t = lfsrStep poly w t)
      have hmul := congrArg (vecOf poly) hvw
      rw [vecOf_lfsrStep h.1, vecOf_lfsrStep h.1] at hmul
      exact vecOf_injective h.1 (Matrix.mulVec_injective_of_isUnit (isUnit_lfsrMatrix h ht) hmul)
    have := finite_vec16
    exact Finite.injective_iff_bijective.mp hinj

namespace Machine

/-- Settles O17: the lanes, zero, the bijection and the value at `e_15`, whose feedback is the last tap. -/
theorem lfsrStepRule : Obligations.LfsrStepRule :=
  ⟨fun _ => ⟨_, rfl, rfl⟩, fun poly v t => ⟨lfsrStep_get_zero poly v t, lfsrStep_get_succ poly v t⟩, lfsrStep_zero,
    fun _ t h => lfsrStep_bijective_iff h t,
    (lfsrStep_unitVec_last 0x1C3 tapsGost).trans (by decide)⟩

/-! #### The byte stages and the matrix stages -/

section
variable {s : State}

theorem execLinearLast_bytePerm {pi : Vector (Fin 16) 16} (h : s.par.profile.lastLin = .bytePerm pi) :
    execLinearLast s = .next (s.setV (bytePerm pi s.seq.v)) := by
  simp only [execLinearLast, h, linearLast_bytePerm h]

theorem execInvLinearLast_bytePerm {pi : Vector (Fin 16) 16} (h : s.par.profile.lastLin = .bytePerm pi) :
    execInvLinearLast s = .next (s.setV (bytePermInv pi s.seq.v)) := by
  simp only [execInvLinearLast, h, invLinearLast_bytePerm h]

/-- With `last_lin = SAME` the last layer is that of the other rounds. -/
theorem execLinearLast_same (h : s.par.profile.lastLin = .same) : execLinearLast s = execLinear s := by
  simp only [execLinearLast, h, linearLast_same h, execLinear]

theorem execInvLinearLast_same (h : s.par.profile.lastLin = .same) : execInvLinearLast s = execInvLinear s := by
  simp only [execInvLinearLast, h, invLinearLast_same h, execInvLinear]

/-- A stage that reads the tables answers, while they are valid, its result in latch `v`. -/
theorem next_setTableV (h : s.tbl.valid = true) (w : Vec16) :
    (.next (s.setTableV w) : Host.Outcome State Fault Refusal) = .next { s with seq := { s.seq with v := w } } :=
  congrArg _ (State.setTableV_of_valid h w)

end

/-- Settles O51: the five byte stages, each by its lanes. -/
theorem byteStages : Obligations.ByteStages :=
  ⟨fun s => ⟨_, rfl, addRoundKey_get s.seq.v s.seq.k⟩,
    fun s h => ⟨_, next_setTableV h _, subBytes_get s.tbl s.seq.v⟩,
    fun s h => ⟨_, next_setTableV h _, invSubBytes_get s.tbl s.seq.v⟩,
    fun s pi h => ⟨_, execLinearLast_bytePerm h, bytePerm_get pi s.seq.v⟩,
    fun s _ h hlast => ⟨_, execInvLinearLast_bytePerm h, bytePermInv_get (hlast.injective h) s.seq.v⟩⟩

/-- Settles O52: the matrix stages and the table rounds, each by its lanes. -/
theorem matrixStages : Obligations.MatrixStages := fun s h =>
  ⟨⟨_, next_setTableV h _, fun hl => (execLinearLast_same hl).trans (next_setTableV h _), matApply_get _ s.tbl.mat s.seq.v⟩,
    ⟨_, next_setTableV h _, fun hl => (execInvLinearLast_same hl).trans (next_setTableV h _),
      matApply_get _ s.tbl.matInv s.seq.v⟩,
    ⟨_, next_setTableV h _, roundT_lane s.tbl s.seq.v⟩,
    ⟨_, next_setTableV h _, invRoundT_lane s.tbl s.seq.v⟩⟩

end Machine
end Sys2Proof
end

section
/-! ### The byte stages of the AES profile (44_profile_aes.md R213 to R220)

A lane of either linear layer is a sum of four products, one for each row of the state, and a row of `M_AES` or of `M_AES^-1` has just
those four entries. That the two matrices are inverse to each other carries over to the stages. -/

namespace Sys2Proof.Machine

/-! #### The state in rows and columns -/

/-- The place of row `r` and column `c` in the state (R213). -/
def lane (r c : Fin 4) : Fin 16 := ⟨4 * c.val + r.val, by omega⟩

theorem lane_val_mod (r c : Fin 4) : (lane r c).val % 4 = r.val := by
  simp only [lane]
  omega

theorem lane_val_div (r c : Fin 4) : (lane r c).val / 4 = c.val := by
  simp only [lane]
  omega

/-- Two vectors with the same rows and columns are equal. -/
theorem Vec16.ext_lane {v w : Vec16} (h : ∀ r c : Fin 4, v[lane r c] = w[lane r c]) : v = w := by
  refine Vec16.ext fun i => ?_
  have hi : i = lane ⟨i.val % 4, by omega⟩ ⟨i.val / 4, by omega⟩ := Fin.ext (Nat.div_add_mod i.val 4).symm
  rw [hi]
  exact h _ _

/-- The sum of sixteen elements, row by row. -/
theorem xorSum_eq_rows (f : Fin 16 → Byte) :
    xorSum f =
      (f (lane 0 0) ^^^ f (lane 0 1) ^^^ f (lane 0 2) ^^^ f (lane 0 3)) ^^^
      (f (lane 1 0) ^^^ f (lane 1 1) ^^^ f (lane 1 2) ^^^ f (lane 1 3)) ^^^
      (f (lane 2 0) ^^^ f (lane 2 1) ^^^ f (lane 2 2) ^^^ f (lane 2 3)) ^^^
      (f (lane 3 0) ^^^ f (lane 3 1) ^^^ f (lane 3 2) ^^^ f (lane 3 3)) := by
  rw [xorSum_eq]
  change _ = (f 0 ^^^ f 4 ^^^ f 8 ^^^ f 12) ^^^ (f 1 ^^^ f 5 ^^^ f 9 ^^^ f 13) ^^^ (f 2 ^^^ f 6 ^^^ f 10 ^^^ f 14) ^^^
    (f 3 ^^^ f 7 ^^^ f 11 ^^^ f 15)
  ac_rfl

/-- A row of the state with one nonzero element. -/
theorem xor_row_single {f : Fin 4 → Byte} (c : Fin 4) (h : ∀ c', c' ≠ c → f c' = 0) : f 0 ^^^ f 1 ^^^ f 2 ^^^ f 3 = f c := by
  fin_cases c <;> simp [h]

/-- A matrix row with one entry `a k` in each row `k` of the state, in column `col k`, applied to a vector. -/
theorem matApply_of_row_entries {poly : BitVec 9} {m : Matrix16} {i : Fin 16} {a : Fin 4 → Byte} {col : Fin 4 → Fin 4}
    (hm : ∀ k c, (m[i])[lane k c] = if c = col k then a k else 0) (v : Vec16) :
    (matApply poly m v)[i] =
      gfMul poly (a 0) v[lane 0 (col 0)] ^^^ gfMul poly (a 1) v[lane 1 (col 1)] ^^^
        gfMul poly (a 2) v[lane 2 (col 2)] ^^^ gfMul poly (a 3) v[lane 3 (col 3)] := by
  have hrow : ∀ k : Fin 4, gfMul poly (m[i])[lane k 0] v[lane k 0] ^^^ gfMul poly (m[i])[lane k 1] v[lane k 1] ^^^
      gfMul poly (m[i])[lane k 2] v[lane k 2] ^^^ gfMul poly (m[i])[lane k 3] v[lane k 3] =
      gfMul poly (a k) v[lane k (col k)] := fun k => by
    refine (xor_row_single (f := fun c => gfMul poly (m[i])[lane k c] v[lane k c]) (col k) fun c hc => ?_).trans ?_
    · rw [hm, if_neg hc]
      exact gfMul_zero_left poly _
    · rw [hm, if_pos rfl]
  rw [matApply_get, xorSum_eq_rows, hrow, hrow, hrow, hrow]

/-! #### SHIFT_ROWS and INV_SHIFT_ROWS -/

theorem shiftRows_lane (v : Vec16) (r c : Fin 4) : (shiftRows v)[lane r c] = v[lane r (c + r)] := by
  have hindex : r.val + 4 * ((c.val + r.val) % 4) = (lane r (c + r)).val := by
    simp only [lane, Fin.val_add]
    omega
  simp only [shiftRows, Fin.getElem_fin, Vector.getElem_ofFn, lane_val_mod, lane_val_div, hindex]

theorem invShiftRows_lane (v : Vec16) (r c : Fin 4) : (invShiftRows v)[lane r c] = v[lane r (c - r)] := by
  have hindex : r.val + 4 * ((c.val + 4 - r.val) % 4) = (lane r (c - r)).val := by
    simp only [lane, Fin.val_sub]
    omega
  simp only [invShiftRows, Fin.getElem_fin, Vector.getElem_ofFn, lane_val_mod, lane_val_div, hindex]

theorem invShiftRows_shiftRows (v : Vec16) : invShiftRows (shiftRows v) = v :=
  Vec16.ext_lane fun r c => by simp only [invShiftRows_lane, shiftRows_lane, sub_add_cancel]

theorem shiftRows_invShiftRows (v : Vec16) : shiftRows (invShiftRows v) = v :=
  Vec16.ext_lane fun r c => by simp only [shiftRows_lane, invShiftRows_lane, add_sub_cancel_right]

theorem piShiftRows_lane : ∀ r c : Fin 4, piShiftRows[lane r c] = lane r (c + r) := by decide

theorem piShiftRows_injective : ∀ i j : Fin 16, piShiftRows[i] = piShiftRows[j] → i = j := by decide

theorem shiftRows_eq_bytePerm (v : Vec16) : shiftRows v = bytePerm piShiftRows v :=
  Vec16.ext_lane fun r c => by simp only [shiftRows_lane, bytePerm_get, piShiftRows_lane]

theorem invShiftRows_eq_bytePermInv (v : Vec16) : invShiftRows v = bytePermInv piShiftRows v := by
  rw [← bytePermInv_bytePerm piShiftRows_injective (invShiftRows v), ← shiftRows_eq_bytePerm, shiftRows_invShiftRows]

/-- Settles O54: `SHIFT_ROWS` by rows and columns, and as the byte permutation `pi_SR`. -/
theorem shiftRowsRule : Obligations.ShiftRowsRule := by
  refine ⟨fun s h => ⟨_, aesStage_of_aes h _, rfl⟩, fun s h => aesStage_of_other h _, fun v r c h h' => ?_, fun v i => ?_, rfl,
    by decide⟩
  · have hrow : (r.val + 4 * c.val) % 4 = r.val := by omega
    have hcol : (r.val + 4 * c.val) / 4 = c.val := by omega
    simp only [shiftRows, Vector.getElem_ofFn, hrow, hcol]
  · rw [shiftRows_eq_bytePerm, bytePerm_get]

/-! #### MIX_COLUMNS -/

theorem circulantColumns_lane (circ : Vector Byte 4) (v : Vec16) (r c : Fin 4) :
    (circulantColumns circ v)[lane r c] =
      gfMul 0x11B circ[0 - r] v[lane 0 c] ^^^ gfMul 0x11B circ[1 - r] v[lane 1 c] ^^^
        gfMul 0x11B circ[2 - r] v[lane 2 c] ^^^ gfMul 0x11B circ[3 - r] v[lane 3 c] := by
  have hentry : ∀ k : Fin 4, (k.val + 4 - r.val) % 4 = (k - r).val := fun k => by
    rw [Fin.val_sub]
    omega
  have hplace : ∀ k : Fin 4, k.val + 4 * c.val = (lane k c).val := fun k => Nat.add_comm _ _
  simp only [circulantColumns, Fin.getElem_fin, Vector.getElem_ofFn, lane_val_mod, lane_val_div, hentry, hplace]
  simp [List.finRange_succ, gfAdd]

/-- The four lanes of a column. -/
theorem circulantColumns_column (c0 c1 c2 c3 : Byte) (v : Vec16) (c : Nat) (h : 4 * c + 3 < 16) :
    (circulantColumns #v[c0, c1, c2, c3] v)[4 * c] =
      gfMul 0x11B c0 v[4 * c] ^^^ gfMul 0x11B c1 v[4 * c + 1] ^^^ gfMul 0x11B c2 v[4 * c + 2] ^^^ gfMul 0x11B c3 v[4 * c + 3] ∧
    (circulantColumns #v[c0, c1, c2, c3] v)[4 * c + 1] =
      gfMul 0x11B c3 v[4 * c] ^^^ gfMul 0x11B c0 v[4 * c + 1] ^^^ gfMul 0x11B c1 v[4 * c + 2] ^^^ gfMul 0x11B c2 v[4 * c + 3] ∧
    (circulantColumns #v[c0, c1, c2, c3] v)[4 * c + 2] =
      gfMul 0x11B c2 v[4 * c] ^^^ gfMul 0x11B c3 v[4 * c + 1] ^^^ gfMul 0x11B c0 v[4 * c + 2] ^^^ gfMul 0x11B c1 v[4 * c + 3] ∧
    (circulantColumns #v[c0, c1, c2, c3] v)[4 * c + 3] =
      gfMul 0x11B c1 v[4 * c] ^^^ gfMul 0x11B c2 v[4 * c + 1] ^^^ gfMul 0x11B c3 v[4 * c + 2] ^^^ gfMul 0x11B c0 v[4 * c + 3] := by
  have hlane := fun r => circulantColumns_lane #v[c0, c1, c2, c3] v r ⟨c, by omega⟩
  exact ⟨hlane 0, hlane 1, hlane 2, hlane 3⟩

theorem one_gfMul {poly : BitVec 9} (h8 : poly.getLsbD 8 = true) (a : Byte) : gfMul poly 1 a = a :=
  (gfMul_comm h8 1 a).trans (gfMul_one h8 a)

/-- Settles O55: the four equations of the circulant `02 03 01 01`, and the first example from them. -/
theorem mixColumnsRule : Obligations.MixColumnsRule := by
  have hcolumn := fun v c h => circulantColumns_column 0x02 0x03 0x01 0x01 v c h
  simp only [one_gfMul polyOk_aes.1] at hcolumn
  refine ⟨fun s h => ⟨_, aesStage_of_aes h _, rfl⟩, fun s h => aesStage_of_other h _, hcolumn, fun v h0 h1 h2 h3 => ?_,
    by decide +kernel⟩
  obtain ⟨e0, e1, e2, e3⟩ := hcolumn v 0 (by decide)
  simp only [Nat.mul_zero, Nat.zero_add, h0, h1, h2, h3] at e0 e1 e2 e3
  exact ⟨e0, e1, e2, e3⟩

/-! #### The linear layers as matrices, and the inverse stages -/

/-- The entries of `M_AES`, four to a row (R215). -/
theorem matrixAes_entry : ∀ r c k c' : Fin 4, (matrixAes[lane r c])[lane k c'] =
    if c' = c + k then (#v[0x02, 0x03, 0x01, 0x01] : Vector Byte 4)[k - r] else 0 := by decide +kernel

/-- The entries of `M_AES^-1`, four to a row (R220). -/
theorem matrixAesInv_entry : ∀ r c k c' : Fin 4, (matrixAesInv[lane r c])[lane k c'] =
    if c' = c - r then (#v[0x0e, 0x0b, 0x0d, 0x09] : Vector Byte 4)[k - r] else 0 := by decide +kernel

theorem mixColumns_shiftRows (v : Vec16) : mixColumns (shiftRows v) = matApply 0x11B matrixAes v :=
  Vec16.ext_lane fun r c => by
    rw [matApply_of_row_entries (matrixAes_entry r c), mixColumns, circulantColumns_lane]
    simp only [shiftRows_lane]

theorem invShiftRows_invMixColumns (v : Vec16) : invShiftRows (invMixColumns v) = matApply 0x11B matrixAesInv v :=
  Vec16.ext_lane fun r c => by
    rw [matApply_of_row_entries (matrixAesInv_entry r c), invShiftRows_lane, invMixColumns, circulantColumns_lane]

/-- The inverse matrix undoes `MIX_COLUMNS` after `SHIFT_ROWS`; `SHIFT_ROWS` and its inverse then cancel on both sides. -/
theorem invMixColumns_mixColumns (v : Vec16) : invMixColumns (mixColumns v) = v := by
  have hlayer : invShiftRows (invMixColumns (mixColumns (shiftRows (invShiftRows v)))) = invShiftRows v := by
    rw [invShiftRows_invMixColumns, mixColumns_shiftRows, matInverse_matrixAes.apply_apply polyOk_aes.1]
  rw [shiftRows_invShiftRows] at hlayer
  rw [← shiftRows_invShiftRows (invMixColumns (mixColumns v)), hlayer, shiftRows_invShiftRows]

theorem mixColumns_invMixColumns (v : Vec16) : mixColumns (invMixColumns v) = v := by
  rw [← shiftRows_invShiftRows (invMixColumns v), mixColumns_shiftRows, invShiftRows_invMixColumns,
    matInverse_matrixAes.symm.apply_apply polyOk_aes.1]

/-- Settles O56: `INV_SHIFT_ROWS` undoes `pi_SR`, `INV_MIX_COLUMNS` is the circulant `0e 0b 0d 09`, and both layers are matrices. -/
theorem inverseAesStages : Obligations.InverseAesStages := by
  refine ⟨fun s h => ⟨aesStage_of_other h _, aesStage_of_other h _⟩,
    fun s h => ⟨_, _, aesStage_of_aes h _, aesStage_of_aes h _, fun i => ?_, rfl⟩,
    fun v => ⟨invShiftRows_shiftRows v, shiftRows_invShiftRows v, invShiftRows_eq_bytePermInv v, invMixColumns_mixColumns v,
      mixColumns_invMixColumns v⟩,
    circulantColumns_column 0x0e 0x0b 0x0d 0x09, mixColumns_shiftRows, by decide, matInverse_matrixAes,
    fun v => (invShiftRows_invMixColumns v).symm⟩
  rw [invShiftRows_eq_bytePermInv]
  exact bytePermInv_get piShiftRows_injective s.seq.v i

end Sys2Proof.Machine
end

section
/-! ### The field laws, the matrix laws, and the inverses (40_table_builder.md R102 to R115) -/

namespace Sys2Proof

/-! #### GF(2^8) -/

section
variable {poly : BitVec 9} (h8 : poly.getLsbD 8 = true)
include h8

theorem gfMul_assoc (a b c : Byte) : gfMul poly (gfMul poly a b) c = gfMul poly a (gfMul poly b c) :=
  gfOf_injective h8 (by simp only [gfOf_mul h8, mul_assoc])

theorem gfMul_gfAdd (a b c : Byte) : gfMul poly a (gfAdd b c) = gfAdd (gfMul poly a b) (gfMul poly a c) :=
  gfOf_injective h8 (by simp only [gfAdd, gfOf_mul h8, gfOf_xor, mul_add])

end

/-- Settles O14: the laws are those of the quotient ring that `gfOf` carries bytes into. -/
theorem gfMulLaws : Obligations.GfMulLaws :=
  ⟨fun poly h8 => ⟨gfMul_comm h8, gfMul_assoc h8, gfMul_gfAdd h8, gfMul_one h8, gfMul_zero_right poly⟩, by decide⟩

/-- An inverse of a nonzero byte is the one `INVTAB` has. -/
theorem eq_gfInv_of_gfMul_eq_one {poly : BitVec 9} (h : PolyOk poly) {a y : Byte} (ha : a ≠ 0) (hy : gfMul poly a y = 1) :
    y = gfInv poly a :=
  calc y = gfMul poly y (gfMul poly a (gfInv poly a)) := by rw [gfMul_gfInv h ha, gfMul_one h.1]
    _ = gfMul poly (gfMul poly a y) (gfInv poly a) := by rw [← gfMul_assoc h.1, gfMul_comm h.1 y a]
    _ = gfInv poly a := by rw [hy, Machine.one_gfMul h.1]

/-- No byte inverts 0, so `INVTAB[0]` is the filler. -/
theorem gfInv_zero (poly : BitVec 9) : gfInv poly 0 = 0 := by
  have hnone : (List.range 256).find? (fun y => decide (gfMul poly 0 (BitVec.ofNat 8 y) = 1)) = none := by
    refine List.find?_eq_none.mpr fun y _ => ?_
    rw [decide_eq_true_eq, show gfMul poly 0 _ = 0 from gfMul_zero_left poly _]
    decide
  rw [gfInv, hnone]

/-- Settles O15: the byte found is an inverse, two inverses of one byte are equal, and 0 has none. -/
theorem gfInverse : Obligations.GfInverse :=
  ⟨fun _ h _ ha => ⟨gfMul_gfInv h ha, fun _ => eq_gfInv_of_gfMul_eq_one h ha⟩, fun poly _ => gfInv_zero poly,
    by decide +kernel⟩

/-! #### Matrices -/

theorem matMul_get (poly : BitVec 9) (a b : Matrix16) (i j : Fin 16) :
    ((matMul poly a b)[i])[j] = xorSum fun k => gfMul poly (a[i])[k] (b[k])[j] := by
  simp [matMul]

theorem unitVec_getElem (j i : Fin 16) : (unitVec j)[i] = if i = j then 1 else 0 := by
  simp [unitVec]

theorem columnOf_get (m : Matrix16) (j i : Fin 16) : (columnOf m j)[i] = (m[i])[j] := by
  simp [columnOf]

theorem scaleVec_one {poly : BitVec 9} (h8 : poly.getLsbD 8 = true) (v : Vec16) : scaleVec poly 1 v = v :=
  Vec16.ext fun i => by rw [scaleVec_get, Machine.one_gfMul h8]

/-- A matrix applied to `e_j` is its column `j`. -/
theorem matApply_unitVec {poly : BitVec 9} (h8 : poly.getLsbD 8 = true) (m : Matrix16) (j : Fin 16) :
    matApply poly m (unitVec j) = columnOf m j := by
  simpa only [scaleVec_one h8] using matApply_scaleVec_unitVec h8 m 1 j

/-- Settles O16: the entries are the sums by definition; the rest are the laws of matrices over the quotient ring. -/
theorem matrixLaws : Obligations.MatrixLaws := fun poly h8 =>
  ⟨matApply_get poly, matMul_get poly, matApply_matMul h8, matApply_identity16 h8, unitVec_getElem,
    fun m i j => by rw [matApply_unitVec h8, columnOf_get]⟩

theorem generateMatrix_get (poly : BitVec 9) (t : Vec16) (i j : Fin 16) :
    ((generateMatrix poly t)[i])[j] = (lfsrSteps poly t 16 (unitVec j))[i] := by
  simp [generateMatrix]

/-- Settles O18: both sides are the 16th power of the matrix of one step, applied to the vector. -/
theorem generateMatrixIsSixteenSteps : Obligations.GenerateMatrixIsSixteenSteps := fun poly t h8 =>
  ⟨generateMatrix_get poly t, fun v => vecOf_injective h8 (by
    rw [vecOf_matApply h8, matOf_generateMatrix h8, vecOf_lfsrSteps h8])⟩

/-! #### `invert_matrix` -/

/-- A matrix has one inverse. -/
theorem MatInverse.unique {poly : BitVec 9} (h8 : poly.getLsbD 8 = true) {m b b' : Matrix16} (h : MatInverse poly m b)
    (h' : MatInverse poly m b') : b' = b :=
  matOf_injective h8 (left_inv_eq_right_inv ((matInverse_iff h8).mp h') ((matInverse_iff h8).mp h.symm))

/-- The inverse that a matrix has is the one computed. -/
theorem invertMatrix_of_matInverse {poly : BitVec 9} (h : PolyOk poly) {m b : Matrix16} (hb : MatInverse poly m b) :
    invertMatrix poly m = some b := by
  obtain ⟨b', he, hb'⟩ := exists_invertMatrix h ⟨b, hb⟩
  rw [he, hb.unique h.1 hb']

/-- Settles O19: the elimination answers an inverse, inverses are unique, and being inverse is symmetric. -/
theorem invertMatrixIsInverse : Obligations.InvertMatrixIsInverse := by
  intro poly m h
  refine ⟨fun b hb => ?_, (invertMatrix_spec h m).2, invertMatrix_of_singular h⟩
  have hinv := (invertMatrix_spec h m).1 b hb
  exact ⟨hinv, fun b' => hinv.unique h.1, invertMatrix_of_matInverse h hinv.symm⟩

/-! #### `invert_permutation` -/

/-- Two tables with the same entries are equal. -/
theorem ByteTable.ext {t u : ByteTable} (h : ∀ x : Byte, lookup t x = lookup u x) : t = u :=
  Vector.ext fun i hi => h (BitVec.ofFin ⟨i, hi⟩)

/-- A table that another one undoes on both sides is a permutation. -/
theorem permutation_of_inverse {t u : ByteTable} (hleft : ∀ x : Byte, lookup u (lookup t x) = x)
    (hright : ∀ y : Byte, lookup t (lookup u y) = y) : Permutation t :=
  fun y => ⟨lookup u y, hright y, fun x hx => by rw [← hx, hleft]⟩

/-- Settles O20: the inverse is a permutation, and what inverts it agrees with the table everywhere. -/
theorem invertPermutationTwice : Obligations.InvertPermutationTwice := by
  intro t ht
  obtain ⟨inv, hinv, hright, hleft⟩ := exists_invertPermutation ht
  obtain ⟨u, hu, hinvu, -⟩ := exists_invertPermutation (permutation_of_inverse hright hleft)
  have hut : u = t := ByteTable.ext fun x => by rw [← hright (lookup u x), hinvu]
  exact ⟨inv, hinv, by rw [hu, hut], hright, hleft⟩

end Sys2Proof
end

section
/-! ### GEN_MATRIX, INV_MATRIX and INV_PERM past their checks (40_table_builder.md R104, R111 to R114) -/

namespace Sys2Proof.Machine

/-! #### A byte string stored -/

/-- A byte of the range stored. -/
theorem State.byte_store_inside (s : State) {addr n i : Nat} {v : List Byte} (hv : v.length = n) (hi : i < n) :
    (s.store addr n v).byte (addr + i) = v.getD i 0 := by
  subst hv
  simp [State.byte, Memory.read_writeBytes, hi]

/-- A matrix as bytes has entry `(i, j)` at offset `16*i + j` (R104). -/
theorem Matrix16.toBytes_getD (m : Matrix16) (i j : Fin 16) : m.toBytes.getD (16 * i.val + j.val) 0 = (m[i])[j] := by
  have hrow : (16 * i.val + j.val) / 16 = i.val := by omega
  have hcol : (16 * i.val + j.val) % 16 = j.val := by omega
  rw [List.getD_eq_getElem _ _ (by simp [Matrix16.toBytes]; omega)]
  simp [Matrix16.toBytes, hrow, hcol]

theorem Matrix16.length_toBytes (m : Matrix16) : m.toBytes.length = 256 := by simp [Matrix16.toBytes]

theorem ByteTable.toList_getD (t : ByteTable) (x : Byte) : t.toList.getD x.toNat 0 = lookup t x := by
  rw [List.getD_eq_getElem _ _ (by simp; omega)]
  simp [lookup]

/-- The vector whose bytes stand in memory is the one loaded. -/
theorem Vec16.ofList_load (s : State) (addr : Nat) :
    Vec16.ofList (s.load addr 16) = Vector.ofFn fun n : Fin 16 => s.byte (addr + n.val) :=
  Vec16.ext fun i => by
    have hi := s.load_getD (addr := addr) i.isLt
    simpa [Vec16.ofList] using hi

/-! #### Past the checks -/

section
variable {s : State}

/-- The verdict when a check for an error heads the list, as its rule states it. -/
theorem verdictOf_error_cons (p : Prop) [Decidable p] (err : ErrorKind) (cs : List Check) :
    verdictOf (firstStop (⟨decide p, .error err 0⟩ :: cs)) =
      if p then .error (errorCode err).toNat 0 else verdictOf (firstStop cs) := by
  simp only [verdictOf_firstStop_cons, decide_eq_true_eq]
  rfl

variable (hf : s.fault = false)
include hf

theorem execGenMatrix_passes (hv : builderVerdict .genMatrix s = .go) :
    execGenMatrix s = .next ((s.store s.buf1.addr 256
      (generateMatrix s.par.profile.poly (Vec16.ofList (s.load s.buf0.addr 16))).toBytes).succeed none 0 0) := by
  refine command_passes hf (verdictOf_eq_go.mp ((verdictOf_builderChecks (verdictOf_error_cons _ _)).trans hv))

theorem execInvMatrix_passes (hv : builderVerdict .invMatrix s = .go) {m : Matrix16}
    (hm : Matrix16.ofList (s.load s.buf0.addr 256) = m) :
    (∀ b, invertMatrix s.par.profile.poly m = some b →
      execInvMatrix s = .next ((s.store s.buf1.addr 256 b.toBytes).succeed none 0 0)) ∧
    (invertMatrix s.par.profile.poly m = none → execInvMatrix s = .next (s.raise none .notInvertible 0 0)) := by
  rw [execInvMatrix, hm,
    command_passes hf (verdictOf_eq_go.mp ((verdictOf_builderChecks (i := .invMatrix) fun cs => ?_).trans hv))]
  · exact ⟨fun b hb => by rw [hb], fun hn => by rw [hn]⟩
  · simp only [List.cons_append, List.nil_append, verdictOf_error_cons]
    rfl

theorem execInvPerm_passes (hv : builderVerdict .invPerm s = .go) {p : ByteTable}
    (hp : ByteTable.ofList (s.load s.buf0.addr 256) = p) :
    (∀ inv, invertPermutation p = some inv →
      execInvPerm s = .next ((s.store s.buf1.addr 256 inv.toList).succeed none 0 0)) ∧
    (invertPermutation p = none → execInvPerm s = .next (s.raise none .notAPermutation 0 0)) := by
  rw [execInvPerm, hp,
    command_passes hf (verdictOf_eq_go.mp ((verdictOf_builderChecks (i := .invPerm) fun cs => ?_).trans hv))]
  · exact ⟨fun b hb => by rw [hb], fun hn => by rw [hn]⟩
  · simp only [List.cons_append, List.nil_append, verdictOf_error_cons]
    rfl

end

/-! #### The results -/

/-- Bytes stored with success change memory and the result registers alone. -/
theorem State.succeed_store (s : State) (addr n : Nat) (v : List Byte) :
    (s.store addr n v).succeed none 0 0 =
      { s with
        mem := ((s.store addr n v).succeed none 0 0).mem
        res := 0
        rDone := 0
        rReq := 0
        rLeft := 0
        seq := Sequencer.zero } := rfl

/-- The end of a command reads as the state it is the end of. -/
theorem State.byte_succeed (s : State) (k : Option SlotId) (done req a : Nat) : (s.succeed k done req).byte a = s.byte a := rfl

/-- The entries of a matrix stored stand row by row at the address (R104). -/
theorem State.byte_store_matrix (s : State) (addr : Nat) (m : Matrix16) (i j : Fin 16) :
    (s.store addr 256 m.toBytes).byte (addr + (16 * i.val + j.val)) = (m[i])[j] := by
  rw [s.byte_store_inside (Matrix16.length_toBytes m) (by omega), Matrix16.toBytes_getD]

/-- The entries of a table stored stand in order at the address (R104). -/
theorem State.byte_store_table (s : State) (addr : Nat) (t : ByteTable) (x : Byte) :
    (s.store addr 256 t.toList).byte (addr + x.toNat) = lookup t x := by
  rw [s.byte_store_inside t.length_toList x.isLt, ByteTable.toList_getD]

/-- Settles O21: past the checks the matrix is stored, and its columns are the 16 steps of the unit vectors. -/
theorem genMatrixResult : Obligations.GenMatrixResult := by
  intro s hf hv
  refine ⟨_, execGenMatrix_passes hf hv, s.succeed_store _ _ _, fun i j => ?_, fun a ha => ?_⟩
  · rw [State.byte_succeed, State.byte_store_matrix, generateMatrix_get, Vec16.ofList_load]
  · rw [State.byte_succeed, s.byte_store_outside _ ha]

/-- Settles O22: the inverse that the elimination answers is stored; it answers none for a singular matrix alone. -/
theorem invMatrixResult : Obligations.InvMatrixResult := by
  intro s m hf hpoly hv hm
  obtain ⟨hsome, hnone⟩ := execInvMatrix_passes hf hv (Matrix16.ofList_load hm)
  refine ⟨fun hinv => ?_, fun hsing => hnone (invertMatrix_of_singular hpoly hsing)⟩
  obtain ⟨b, hb, hmb⟩ := exists_invertMatrix hpoly hinv
  refine ⟨_, b, hsome b hb, hmb, s.succeed_store _ _ _, fun i j => ?_, fun a ha => ?_⟩
  · rw [State.byte_succeed, State.byte_store_matrix]
  · rw [State.byte_succeed, s.byte_store_outside _ ha]

/-- Settles O23: the inverse table is stored, and its entry at `S[x]` is `x`. -/
theorem invPermResult : Obligations.InvPermResult := by
  intro s p hf hv hp
  obtain ⟨hsome, hnone⟩ := execInvPerm_passes hf hv (ByteTable.ofList_load hp)
  refine ⟨fun hperm => ?_, fun hno => hnone (invertPermutation_of_not_permutation hno)⟩
  obtain ⟨inv, hinv, -, hleft⟩ := exists_invertPermutation hperm
  refine ⟨_, hsome inv hinv, s.succeed_store _ _ _, fun x => ?_, fun a ha => ?_⟩
  · rw [State.byte_succeed, State.byte_store_table, hleft]
  · rw [State.byte_succeed, s.byte_store_outside _ ha]

end Sys2Proof.Machine
end

section
/-! ### An error other than LowKeyResource changes the result registers only (41_key_object.md R130, 60_exceptions.md R256)

Such an error is that of a check, or of an effect that has written nothing yet but the draw counter. -/

namespace Sys2Proof.Machine

/-! #### Checks that know of no block -/

/-- No check in the list ends with an error that knows of requested blocks, but for `LowKeyResource` (43_modes.md R180 (h)). -/
def KnowNoBlocks (cs : List Check) : Prop :=
  ∀ c ∈ cs, ∀ err req, c.stop = .error err req → req = 0 ∨ err = .lowKeyResource

section
variable {s : State} {k : SlotId} {fails : Bool} {cs : List Check}

@[simp] theorem knowNoBlocks_nil : KnowNoBlocks [] := nofun

theorem knowNoBlocks_cons {c : Check} : KnowNoBlocks (c :: cs) ↔
    (∀ err req, c.stop = .error err req → req = 0 ∨ err = .lowKeyResource) ∧ KnowNoBlocks cs := List.forall_mem_cons

@[simp] theorem knowNoBlocks_append {ds : List Check} : KnowNoBlocks (cs ++ ds) ↔ KnowNoBlocks cs ∧ KnowNoBlocks ds :=
  List.forall_mem_append

@[simp] theorem knowNoBlocks_cons_error (err : ErrorKind) :
    KnowNoBlocks (⟨fails, .error err 0⟩ :: cs) ↔ KnowNoBlocks cs := by
  rw [knowNoBlocks_cons]
  exact and_iff_right fun _ _ h => by cases h; exact .inl rfl

@[simp] theorem knowNoBlocks_cons_lowKeyResource (req : Nat) :
    KnowNoBlocks (⟨fails, .error .lowKeyResource req⟩ :: cs) ↔ KnowNoBlocks cs := by
  rw [knowNoBlocks_cons]
  exact and_iff_right fun _ _ h => by cases h; exact .inr rfl

@[simp] theorem knowNoBlocks_cons_breach (c : FaultCause) : KnowNoBlocks (⟨fails, .breach c⟩ :: cs) ↔ KnowNoBlocks cs := by
  rw [knowNoBlocks_cons]
  exact and_iff_right nofun

@[simp] theorem knowNoBlocks_cons_refuse (r : Refusal) : KnowNoBlocks (⟨fails, .refuse r⟩ :: cs) ↔ KnowNoBlocks cs := by
  rw [knowNoBlocks_cons]
  exact and_iff_right nofun

@[simp] theorem knowNoBlocks_contractChecks (size : Nat) (buffers : List Buffer) (tooShort overlap : Bool) :
    KnowNoBlocks (contractChecks size buffers tooShort overlap) := by simp [contractChecks]

@[simp] theorem knowNoBlocks_modeChecks (n : Nat) : KnowNoBlocks (modeChecks s k n) := by
  simp [modeChecks, absentCheck, unboundCheck, unkeyedCheck]

@[simp] theorem knowNoBlocks_builderChecks : KnowNoBlocks (builderChecks s cs) ↔ KnowNoBlocks cs := by
  simp [builderChecks]

/-- The error that a list of checks gives. -/
theorem KnowNoBlocks.firstStop (h : KnowNoBlocks cs) {err : ErrorKind} {req : Nat}
    (hc : firstStop cs = some (.error err req)) : req = 0 ∨ err = .lowKeyResource := by
  obtain ⟨c, hmem, -, hstop⟩ := firstStop_mem hc
  exact h c hmem err req hstop

end

/-! #### Effects that end with an error -/

/-- `e` is an end of command `i` on `s` with success, with `LowKeyResource`, or with an error before anything but the draw counter
is written. -/
def FailsUnwritten (i : Instr) (s e : State) : Prop :=
  e.res = 0 ∨ e.res = 8 ∨ ∃ err draws, e = { s with draws := draws }.raise i.namedSlot err 0 0

theorem FailsUnwritten.raise {i : Instr} {s : State} {k : Option SlotId} (hk : i.namedSlot = k) (err : ErrorKind) :
    FailsUnwritten i s (s.raise k err 0 0) := by
  subst hk
  exact .inr (.inr ⟨err, s.draws, rfl⟩)

theorem failsUnwritten_finishJob (i : Instr) (s : State) (k : SlotId) (req : Nat) (r : Except Job Job) :
    FailsUnwritten i s (finishJob k req r) :=
  (finishJob_res req r).imp_right .inl

theorem failsUnwritten_installTables {i : Instr} (hk : i.namedSlot = none) (s : State) (m : Matrix16) (t : ByteTable) :
    FailsUnwritten i s (s.installTables m t) := by
  unfold State.installTables
  split
  · exact .raise hk _
  split
  · exact .raise hk _
  · exact .inl rfl

/-- Every host command is checks that know of no block and an end that an error leaves unwritten. -/
theorem exec_host_failsUnwritten {i : Instr} (hi : i.hostIssuable = true) (s : State) :
    ∃ cs e, exec i s = command s i.namedSlot cs e ∧ KnowNoBlocks cs ∧ FailsUnwritten i s e := by
  cases i with
  | genMatrix => exact ⟨_, _, rfl, by simp, .inl rfl⟩
  | invMatrix | invPerm =>
    refine ⟨_, _, rfl, by simp, ?_⟩
    split
    · exact .raise rfl _
    · exact .inl rfl
  | initTables => exact ⟨_, _, rfl, by simp, failsUnwritten_installTables rfl s _ _⟩
  | initDefault variant =>
    refine ⟨_, _, execInitDefault.eq_1 variant s, by simp, ?_⟩
    split
    · exact .raise rfl _
    · exact failsUnwritten_installTables rfl s _ _
  | create k n => exact ⟨_, _, rfl, by simp, .inl rfl⟩
  | bind k kind => exact ⟨_, _, rfl, by simp [absentCheck], .inl rfl⟩
  | setKey k => exact ⟨_, _, rfl, by simp [absentCheck, unboundCheck], .inl rfl⟩
  | setKeyRandom k n =>
    refine ⟨_, _, rfl, by simp [absentCheck, unboundCheck], ?_⟩
    split
    · exact .inr (.inr ⟨_, _, rfl⟩)
    · exact .inl rfl
  | deriveNext k =>
    exact ⟨_, _, rfl, by simp [absentCheck, unboundCheck, unkeyedCheck], failsUnwritten_finishJob _ s k _ _⟩
  | destroy k => exact ⟨_, _, execDestroy.eq_1 k s, by simp, .inl rfl⟩
  | ecbEnc k | ecbDec k =>
    exact ⟨_, _, rfl, by simp [alignedCheck, resourceCheck], failsUnwritten_finishJob _ s k _ _⟩
  | cbcEnc k | cbcDec k =>
    exact ⟨_, _, rfl, by simp [alignedCheck, cbcIvCheck, resourceCheck], failsUnwritten_finishJob _ s k _ _⟩
  | ctr k | ctrAcpkm k =>
    exact ⟨_, _, rfl, by simp [ctrIvCheck, resourceCheck], failsUnwritten_finishJob _ s k _ _⟩
  | cmac k => exact ⟨_, _, rfl, by simp [resourceCheck], failsUnwritten_finishJob _ s k _ _⟩
  | encryptBlock | decryptBlock | scheduleKeys | eraseKeys | addRoundKey | subBytes | linear | linearLast | invSubBytes
  | invLinear | invLinearLast | roundT | invRoundT | shiftRows | mixColumns | invShiftRows | invMixColumns | lfsrStep =>
    cases hi

/-- Settles O10: the error is that of a check, with no block requested, or of an effect that has written nothing. -/
theorem errorChangesResultsOnly : Obligations.ErrorChangesResultsOnly := by
  intro i s t hi hf h h0 h8 hFE
  obtain ⟨cs, e, hexec, hcs, he⟩ := exec_host_failsUnwritten hi s
  have hraise : ∃ err draws, t = { s with draws := draws }.raise i.namedSlot err 0 0 := by
    obtain ⟨hf', -⟩ | ⟨-, err, req, hstop, rfl⟩ | ⟨-, c, -, rfl⟩ | ⟨-, -, rfl⟩ := command_cases (hexec ▸ h)
    · exact absurd (hf.symm.trans hf') (by decide)
    · obtain rfl | rfl := hcs.firstStop hstop
      · exact ⟨err, s.draws, rfl⟩
      · exact absurd rfl h8
    · exact absurd rfl hFE
    · exact (he.resolve_left h0).resolve_left h8
  obtain ⟨err, draws, rfl⟩ := hraise
  cases i.namedSlot <;> rfl

end Sys2Proof.Machine
end

section
/-! ### The key object's commands past their checks (41_key_object.md R131 to R138) -/

namespace Sys2Proof.Machine

/-! #### CREATE and DESTROY -/

section
variable {s : State} {k : SlotId}

theorem execCreate_passes {n : Nat} (hf : s.fault = false) (hv : keyVerdict (.create k n) k s = .go) :
    execCreate k n s =
      .next ((s.setSlot k { Slot.zero with present := true, blockSize := BitVec.ofNat 8 n }).succeed (some k) 0 0) := by
  refine command_passes hf (verdictOf_eq_go.mp (Eq.trans (Eq.symm ?_) hv))
  simp only [keyVerdict, verdictOf_firstStop_cons, Bool.and_eq_true, decide_eq_true_eq]
  rfl

theorem blockSize_of_createVerdict {n : Nat} (hv : keyVerdict (.create k n) k s = .go) : n = 8 ∨ n = 16 := by
  by_contra h
  rw [not_or] at h
  cases hp : (s.slot k).present <;> simp [keyVerdict, hp, h] at hv

end

/-- Settles O28: the slot written is zero but for `present` and the block size, one of the two that the second check admits. -/
theorem createResult : Obligations.CreateResult := by
  intro s k n hf hv
  refine ⟨(execCreate_passes hf hv).trans ?_, blockSize_of_createVerdict hv⟩
  rw [State.succeed_setSlot rfl]

section
variable {s : State} {k : SlotId}

theorem execDestroy_present (hf : s.fault = false) (hp : (s.slot k).present = true) :
    execDestroy k s = .next ((s.setSlot k Slot.zero).succeed (some k) 0 0) := by
  rw [execDestroy, command_passes hf rfl, if_pos hp]

theorem execDestroy_absent (hf : s.fault = false) (hp : (s.slot k).present = false) :
    execDestroy k s = .next { s with res := 0, rDone := 0, rReq := 0, rLeft := 0, seq := Sequencer.zero } := by
  rw [execDestroy, command_passes hf rfl, if_neg (ne_true_of_eq_false hp), State.succeed_eq, State.conclude,
    State.resourceLeft_absent s hp]
  rfl

/-- The success of `DESTROY` on a present slot. -/
theorem State.succeed_destroy (s : State) (k : SlotId) :
    (s.setSlot k Slot.zero).succeed (some k) 0 0 = s.done k Slot.zero s.mem 0 := by
  have hp : ((s.setSlot k Slot.zero).slot k).present = false := by rw [State.slot_setSlot_same]; rfl
  rw [State.succeed_eq, State.conclude, State.resourceLeft_absent _ hp]
  rfl

end

/-- Settles O33: what `DESTROY` leaves is an absent slot and zero result registers, and on such a state it changes nothing. -/
theorem destroyResult : Obligations.DestroyResult := by
  have hpresent : ∀ (s : State) (k : SlotId), s.fault = false → (s.slot k).present = true →
      exec (.destroy k) s = .next (s.done k Slot.zero s.mem 0) := fun s k hf hp =>
    (execDestroy_present hf hp).trans (congrArg _ (s.succeed_destroy k))
  refine ⟨hpresent, fun s k hf hp => execDestroy_absent hf hp, fun s t k hf ht => ?_⟩
  cases hp : (s.slot k).present with
  | true =>
    cases (hpresent s k hf hp).symm.trans ht
    have habsent : ((s.done k Slot.zero s.mem 0).slot k).present = false := by simp [State.done, State.slot, Slot.zero]
    exact execDestroy_absent hf habsent
  | false =>
    cases (execDestroy_absent hf hp).symm.trans ht
    exact execDestroy_absent (s := { s with res := 0, rDone := 0, rReq := 0, rLeft := 0, seq := Sequencer.zero }) hf hp

/-! #### SET_KEY and SET_KEY_RANDOM -/

/-- A key installed is a key scheduled: what stood in its place is erased, the counter and the IV are free (R136). -/
theorem Slot.installKey_with (par : Params) (tbl : TableSet) (sl : Slot) (kb : List Byte) (c : BitVec 64)
    (iv : Vector Byte 64) (n : BitVec 8) :
    { Slot.installKey par tbl sl kb with resourceCounter := c, ivBuffer := iv, ivLength := n } =
      Slot.scheduleKeys par tbl
        { sl with
          keySet := true
          keyLen := BitVec.ofNat 8 kb.length
          key := keyField kb
          keyTag := Config.icode kb
          resourceCounter := c
          ivBuffer := iv
          ivLength := n } := by
  cases h : sl.kind <;> simp only [Slot.installKey, Slot.scheduleKeys, Slot.eraseKeys, h] <;> rfl

/-- What `SET_KEY` and `SET_KEY_RANDOM` leave when they have a key (R133, R134). -/
theorem State.setKey_eq_done {s : State} {k : SlotId} (hp : (s.slot k).present = true) (kb : List Byte) :
    s.setKey k kb =
      s.done k
        (Slot.scheduleKeys s.par s.tbl
          { s.slot k with
            keySet := true
            keyLen := BitVec.ofNat 8 kb.length
            key := keyField kb
            keyTag := Config.icode kb
            resourceCounter := resourceMax s.par (s.slot k).kind
            ivBuffer := Vector.replicate 64 0
            ivLength := 0 }) s.mem 0 := by
  obtain ⟨rk, nrk, h⟩ := Slot.installKey_eq s.par s.tbl (s.slot k) kb
  have hpresent : (Slot.installKey s.par s.tbl (s.slot k) kb).present = true := by rw [h]; exact hp
  have hkind : (Slot.installKey s.par s.tbl (s.slot k) kb).kind = (s.slot k).kind := by rw [h]
  rw [State.setKey, State.succeed_setSlot (by exact hpresent), Slot.installKey_with, hkind]

/-- The key field of bytes in memory. -/
theorem keyField_load (s : State) (addr n : Nat) :
    keyField (s.load addr n) = Vector.ofFn fun i => if i.val < n then s.byte (addr + i.val) else 0 := by
  refine congrArg Vector.ofFn (funext fun i => ?_)
  split
  · next h => exact s.load_getD h
  · next h => exact List.getD_eq_default _ _ (by simpa [State.load] using h)

section
variable {s : State} {k : SlotId}

theorem execSetKey_passes (hf : s.fault = false) (hv : keyVerdict (.setKey k) k s = .go) :
    execSetKey k s = .next (s.setKey k (s.load s.buf0.addr s.buf0.len)) := by
  refine command_passes hf (verdictOf_eq_go.mp (Eq.trans (Eq.symm ?_) hv))
  simp only [keyVerdict, absentCheck, unboundCheck, List.cons_append, List.nil_append, verdictOf_firstStop_cons,
    verdictOf_contractChecks, Bool.not_eq_true', decide_eq_true_eq, Buffer.missing_eq_true, ← acceptsKeyLen_eq_true,
    Bool.not_eq_true]
  rfl

theorem execSetKeyRandom_passes {keyLen n : Nat} (hf : s.fault = false) (hv : keyVerdict (.setKeyRandom k keyLen) k s = .go)
    (hn : n = if keyLen ≠ 0 then keyLen else defaultKeyLen s.par (s.slot k).kind) :
    execSetKeyRandom k keyLen s =
      .next (match Config.rngFill s.draws n with
        | none => { s with draws := s.draws + 1 }.raise (some k) .keyValueUndefined 0 0
        | some b => { s with draws := s.draws + 1 }.setKey k b.toList) := by
  obtain rfl : n = randomKeyLen s k keyLen := by rw [hn, randomKeyLen, ite_not]
  refine command_passes hf (verdictOf_eq_go.mp (Eq.trans (Eq.symm ?_) hv))
  simp only [keyVerdict, ← hn, absentCheck, unboundCheck, verdictOf_firstStop_cons, Bool.not_eq_true', decide_eq_true_eq,
    ← acceptsKeyLen_eq_true, Bool.not_eq_true]
  rfl

/-- The first check of both commands. -/
theorem present_of_setKeyVerdict {i : Instr} (hi : i = .setKey k ∨ ∃ n, i = .setKeyRandom k n)
    (hv : keyVerdict i k s = .go) : (s.slot k).present = true := by
  by_contra hp
  rw [Bool.not_eq_true] at hp
  obtain rfl | ⟨n, rfl⟩ := hi <;> simp [keyVerdict, hp] at hv

end

/-- Settles O30: past the checks the bytes read are installed. -/
theorem setKeyResult : Obligations.SetKeyResult := by
  intro s k hf hv
  refine (execSetKey_passes hf hv).trans ?_
  rw [State.setKey_eq_done (present_of_setKeyVerdict (.inl rfl) hv), keyField_load, State.load, Memory.length_readBytes]

/-- Settles O31, by the two answers of the draw. -/
theorem setKeyRandomResult : Obligations.SetKeyRandomResult := by
  intro s k keyLen n hf hv hn
  have hp := present_of_setKeyVerdict (.inr ⟨keyLen, rfl⟩) hv
  refine (execSetKeyRandom_passes hf hv hn).trans (congrArg _ ?_)
  cases Config.rngFill s.draws n with
  | none =>
    rw [State.raise_eq, State.conclude, State.resourceLeft_present _ (by exact hp)]
    rfl
  | some b =>
    simp only
    rw [State.setKey_eq_done (by exact hp), Vector.length_toList]
    rfl

end Sys2Proof.Machine
end

section
/-! ### Block calls one after the other, and the derivation of the next key (41_key_object.md R137, 42_cipher_core.md R162) -/

namespace Sys2Proof.Machine

/-! #### Calls that spend the counter -/

/-- The job after `n` more block calls that have changed nothing but the counter and the count of calls. -/
def Job.spend (k : SlotId) (j : Job) (n : Nat) : Job := ⟨j.st.setSlot k ((j.st.slot k).spent n), j.done + n⟩

section
variable {k : SlotId} {j : Job} {n : Nat}

theorem Job.spend_zero (k : SlotId) (j : Job) : j.spend k 0 = j := by
  simp only [Job.spend, Slot.spent_zero, State.setSlot_slot, Nat.add_zero]

/-- While units are left a call takes one. -/
theorem blockCall_spend (dir : Direction) (b : List Byte) (h : n < (j.st.slot k).resourceCounter.toNat) :
    blockCall dir k b (j.spend k n) = .ok (j.spend k (n + 1), blockOp dir j.st.par j.st.tbl (j.st.slot k) b) := by
  have hslot : (j.spend k n).st.slot k = (j.st.slot k).spent n := State.slot_setSlot_same _ _ _
  have hc : ((j.spend k n).st.slot k).resourceCounter ≠ 0 := by rw [hslot]; exact (counter_spend h le_rfl).1
  rw [blockCall_counts hc, hslot, Slot.spent_spend _ h le_rfl]
  simp only [Job.spend, State.setSlot_setSlot, Nat.add_assoc]
  rfl

/-- When all units are spent a call is `LowKeyResource`. -/
theorem blockCall_spent (dir : Direction) (b : List Byte) (h : (j.st.slot k).resourceCounter.toNat = n) :
    blockCall dir k b (j.spend k n) = .error (j.spend k n) := by
  refine blockCall_exhausted ?_
  rw [show (j.spend k n).st.slot k = (j.st.slot k).spent n from State.slot_setSlot_same _ _ _, Slot.spent, ← h]
  simp

/-- The encryptions of a derivation that the counter pays for. -/
theorem derivationLoop_spend {bs : Nat} (m : Nat) {i : Nat} {buf : List Byte} (h : n + m ≤ (j.st.slot k).resourceCounter.toNat) :
    derivationLoop k bs m i buf (j.spend k n) =
      .ok (j.spend k (n + m), buf ++ (List.range' i m).flatMap fun l =>
        encryptBlock j.st.par j.st.tbl (j.st.slot k) (acpkmBlock j.st.par.profile bs l)) := by
  induction m generalizing n i buf with
  | zero => simp [derivationLoop]
  | succ m ih =>
    have hpar : (j.spend k n).st.par = j.st.par := rfl
    simp only [derivationLoop, hpar]
    rw [blockCall_spend .encrypt _ (by omega)]
    simp only
    rw [ih (by omega), List.range'_succ, List.flatMap_cons, List.append_assoc, Nat.add_assoc, Nat.add_comm 1 m]
    rfl

end

/-! #### The next key -/

section
variable {par : Params} {tbl : TableSet} {sl : Slot}

/-- The next key of a slot of proper shape is as long as its key. -/
theorem length_nextKey (h : sl.Shape) : (nextKey par tbl sl).length = sl.keyLen.toNat := by
  have hblock : ∀ b, (encryptBlock par tbl sl b).length = sl.bs := blockOp_length (dir := .encrypt) h
  have hle := Slot.keyLen_le_derivationBlocks h
  simpa [nextKey, List.length_flatMap, hblock, Slot.derivationBlocks] using hle

/-- Deriving the next key changes the key, its tag, the round keys and their number. -/
theorem nextKeySlot_eq (par : Params) (tbl : TableSet) (sl : Slot) :
    ∃ key tag rk nrk, nextKeySlot par tbl sl =
      { sl with key := key, keyTag := tag, rk := rk, nrk := nrk, keySet := true } := by
  obtain ⟨rk, nrk, h⟩ := Slot.scheduleKeys_eq par tbl
    { sl with key := keyField (nextKey par tbl sl), keyTag := Config.icode (nextKey par tbl sl) }
  exact ⟨_, _, rk, nrk, by rw [nextKeySlot, h]⟩

/-- The next key as it is installed, the counter having changed meanwhile (R136). -/
theorem installKey_nextKey (h : sl.Shape) (c : BitVec 64) :
    Slot.installKey par tbl { sl with resourceCounter := c } (nextKey par tbl sl) =
      { nextKeySlot par tbl sl with resourceCounter := c } := by
  have hlen : BitVec.ofNat 8 (nextKey par tbl sl).length = sl.keyLen := by rw [length_nextKey h, BitVec.ofNat_toNat, BitVec.setWidth_eq]
  rw [nextKeySlot]
  generalize nextKey par tbl sl = kb at hlen
  simp only [Slot.installKey, Slot.scheduleKeys, Slot.eraseKeys, Slot.keyBytes, hlen]
  cases sl.kind <;> rfl

end

/-- `derive_next` with a counter that pays for it (R137). -/
theorem deriveNext_ok {k : SlotId} {j : Job} (hshape : (j.st.slot k).Shape)
    (hc : (j.st.slot k).derivationBlocks ≤ (j.st.slot k).resourceCounter.toNat) :
    deriveNext k j =
      .ok ⟨j.st.setSlot k ((nextKeySlot j.st.par j.st.tbl (j.st.slot k)).spent (j.st.slot k).derivationBlocks),
        j.done + (j.st.slot k).derivationBlocks⟩ := by
  have hloop := derivationLoop_spend (k := k) (j := j) (n := 0) (bs := (j.st.slot k).bs) (j.st.slot k).derivationBlocks
    (i := 0) (buf := []) (by omega)
  have hcounter : (nextKeySlot j.st.par j.st.tbl (j.st.slot k)).resourceCounter = (j.st.slot k).resourceCounter := by
    obtain ⟨key, tag, rk, nrk, h⟩ := nextKeySlot_eq j.st.par j.st.tbl (j.st.slot k)
    rw [h]
  rw [Job.spend_zero, Nat.zero_add, List.nil_append, ← List.range_eq_range'] at hloop
  simp only [deriveNext]
  rw [if_neg hc.not_gt, hloop]
  simp only [Job.spend, State.slot_setSlot_same, State.setSlot_setSlot, State.setSlot_par, State.setSlot_tbl]
  have hinstall := installKey_nextKey (par := j.st.par) (tbl := j.st.tbl) hshape
    ((j.st.slot k).resourceCounter - BitVec.ofNat 64 (j.st.slot k).derivationBlocks)
  rw [Slot.spent, Slot.spent, hcounter, ← hinstall]
  rfl

/-- `derive_next` with a counter that does not pay for it: nothing is encrypted (R137). -/
theorem deriveNext_error {k : SlotId} {j : Job}
    (hc : (j.st.slot k).resourceCounter.toNat < (j.st.slot k).derivationBlocks) : deriveNext k j = .error j := by
  simp only [deriveNext]
  rw [if_pos hc]

/-! #### DERIVE_NEXT -/

section
variable {s : State} {k : SlotId}

theorem execDeriveNext_passes (hf : s.fault = false) (hv : keyVerdict (.deriveNext k) k s = .go) :
    execDeriveNext k s = .next (finishJob k (s.slot k).derivationBlocks (deriveNext k ⟨s, 0⟩)) := by
  refine command_passes hf (verdictOf_eq_go.mp (Eq.trans (Eq.symm ?_) hv))
  simp only [keyVerdict, absentCheck, unboundCheck, unkeyedCheck, verdictOf_firstStop_cons, Bool.not_eq_true',
    decide_eq_true_eq]
  rfl

theorem derivationBlocks_le_of_deriveVerdict (hv : keyVerdict (.deriveNext k) k s = .go) :
    (s.slot k).derivationBlocks ≤ (s.slot k).resourceCounter.toNat := by
  simp only [keyVerdict] at hv
  split_ifs at hv with _ _ _ hc
  exact not_lt.mp hc

end

/-- Settles O32: the derivation that the last check pays for. -/
theorem deriveNextResult : Obligations.DeriveNextResult := by
  rintro s k ⟨hf, hp, hshape, -⟩ hv
  refine ⟨(execDeriveNext_passes hf hv).trans (congrArg _ ?_), length_nextKey hshape⟩
  obtain ⟨key, tag, rk, nrk, h⟩ := nextKeySlot_eq s.par s.tbl (s.slot k)
  have hnext : (nextKeySlot s.par s.tbl (s.slot k)).present = true ∧
      (nextKeySlot s.par s.tbl (s.slot k)).resourceCounter = (s.slot k).resourceCounter := by rw [h]; exact ⟨hp, rfl⟩
  obtain ⟨hpresent, hcounter⟩ := hnext
  rw [deriveNext_ok hshape (derivationBlocks_le_of_deriveVerdict hv), finishJob, Nat.zero_add,
    State.succeed_setSlot (by exact hpresent), Slot.spent, hcounter]
  rfl

end Sys2Proof.Machine
end

section
/-! ### A counter that runs out over whole blocks: ECB and CBC (43_modes.md R184, 42_cipher_core.md R163)

While units are left each block goes as it does with a sufficient counter, and the first block without one ends the command with
nothing more changed. -/

namespace Sys2Proof.Machine

/-! #### Loops -/

/-- A loop whose body takes the invariant `I` of block `i` to that of block `i + 1` or ends in `E i` either ends with the invariant of
block `m` or is ended at an earlier one. -/
theorem blocksLoop_ends {body : Nat → Job → Except Job Job} {I E : Nat → Job → Prop} {m : Nat}
    (hbody : ∀ i j, i < m → I i j →
      (∃ j', body i j = .ok j' ∧ I (i + 1) j') ∨ ∃ j', body i j = .error j' ∧ E i j') :
    ∀ (n i : Nat) (j : Job), i + n = m → I i j →
      (∃ j', blocksLoop body n i j = .ok j' ∧ I m j') ∨
      ∃ i' j', i' < m ∧ blocksLoop body n i j = .error j' ∧ E i' j' := by
  intro n
  induction n with
  | zero => rintro i j rfl hj; exact .inl ⟨j, rfl, hj⟩
  | succ n ih =>
    intro i j hm hj
    obtain ⟨j1, hb, hj1⟩ | ⟨j1, hb, hj1⟩ := hbody i j (by omega) hj
    · simp only [blocksLoop, hb]
      exact ih (i + 1) j1 (by omega) hj1
    · simp only [blocksLoop, hb]
      exact .inr ⟨i, j1, by omega, rfl, hj1⟩

/-- A loop whose body is ended at block `r`, with nothing changed there, ends with the invariant of block `r`. -/
theorem blocksLoop_runsOut {body : Nat → Job → Except Job Job} {I : Nat → Job → Prop} {r m : Nat} (hr : r < m)
    (hbody : ∀ i j, i < r → I i j → ∃ j', body i j = .ok j' ∧ I (i + 1) j')
    (hstop : ∀ j, I r j → body r j = .error j) {j : Job} (hj : I 0 j) :
    ∃ j', blocksLoop body m 0 j = .error j' ∧ I r j' := by
  have hends : ∀ i j, i < m → i ≤ r ∧ I i j →
      (∃ j', body i j = .ok j' ∧ i + 1 ≤ r ∧ I (i + 1) j') ∨ ∃ j', body i j = .error j' ∧ I r j' := by
    rintro i j - ⟨hle, hij⟩
    obtain hlt | rfl := Nat.lt_or_eq_of_le hle
    · obtain ⟨j', hb, hj'⟩ := hbody i j hlt hij
      exact .inl ⟨j', hb, hlt, hj'⟩
    · exact .inr ⟨j, hstop j hij, hij⟩
  obtain ⟨j', -, hle, -⟩ | ⟨i, j', -, hloop, hj'⟩ :=
    blocksLoop_ends (E := fun _ => I r) hends m 0 j (Nat.zero_add m) ⟨r.zero_le, hj⟩
  · exact absurd hle hr.not_ge
  · exact ⟨j', hloop, hj'⟩

/-! #### What passed checks give -/

section
variable {s : State} {k : SlotId}

/-- The output of a command over the whole input starts at the input or is apart from it. -/
theorem place_of_modeVerdict {i : Instr} (hv : modeVerdict i k s = .go) (hout : outBytes i s = s.buf0.len) :
    s.buf0.AliasOrApart s.buf1.addr s.buf0.len := by
  obtain ⟨-, -, hplace⟩ := operands_of_modeVerdict hv
  rw [← hout]
  exact of_decide_eq_true (Bool.and_eq_true_iff.mp hplace).1

/-- The counter is not 0 if a block is needed (R180 (h)). -/
theorem counter_ne_zero_of_modeVerdict {i : Instr} (hv : modeVerdict i k s = .go) (hm : 0 < blocksNeeded i s) :
    (s.slot k).resourceCounter.toNat ≠ 0 := by
  unfold modeVerdict at hv
  split_ifs at hv with _ _ _ _ _ _ _ _ hc
  · obtain ⟨-, -, -, hrest⟩ := contractVerdict_eq_go.mp hv
    cases hrest
  · exact fun h0 => hc ⟨hm, BitVec.eq_of_toNat_eq h0⟩

/-! #### What has not been written reads as before -/

/-- The next `w` bytes of the input after the first `n` bytes of the output have been written. -/
theorem State.load_input {t : State} {n w : Nat} (hplace : s.buf0.AliasOrApart s.buf1.addr s.buf0.len)
    (hrest : ∀ a, (a < s.buf1.addr ∨ s.buf1.addr + n ≤ a) → t.byte a = s.byte a) (hend : n + w ≤ s.buf0.len) :
    t.load (s.buf0.addr + n) w = s.load (s.buf0.addr + n) w := by
  refine State.load_congr fun a h1 h2 => hrest a ?_
  obtain hal | h0 | h0 | h0 | h0 := hplace <;> omega

/-- The error of a command that has written its slot, the slot present. -/
theorem State.raise_setSlot {sl : Slot} (hp : sl.present = true) (n m : Nat) :
    (s.setSlot k sl).raise (some k) .lowKeyResource n m = s.runsOut k sl s.mem n m := by
  have hleft : (s.setSlot k sl).resourceLeft (some k) = sl.resourceCounter := by simp [State.resourceLeft, hp]
  simp only [State.raise_eq, State.conclude, hleft]
  rfl

/-! #### The block that finds the counter at 0 -/

section
variable {sl : Nat → Slot} {out : Nat → List Byte} {r m : Nat} {j : Job}

theorem AfterBlocks.blockCall_exhausted (h : AfterBlocks s k sl out r j) (dir : Direction) (b : List Byte)
    (hc : (sl r).resourceCounter = 0) : Machine.blockCall dir k b j = .error j :=
  Machine.blockCall_exhausted (by rw [h.slot]; exact hc)

/-- The end of a command that has written `r` blocks of `m`. -/
theorem AfterBlocks.runsOut (h : AfterBlocks s k sl out r j) (hp : (sl r).present = true) :
    finishJob k m (.error j) = s.runsOut k (sl r) j.st.mem r m := by
  rw [finishJob, h.done, h.state, State.raise_setSlot hp]
  rfl

end

/-- A whole block of the input, the blocks before it written. -/
theorem AfterBlocks.load_input {sl : Nat → Slot} {out : Nat → List Byte} {i : Nat} {j : Job} (h : AfterBlocks s k sl out i j)
    (hplace : s.buf0.AliasOrApart s.buf1.addr s.buf0.len) (hi : i < s.buf0.len / (s.slot k).bs) :
    j.st.load (s.buf0.addr + i * (s.slot k).bs) (s.slot k).bs = s.block s.buf0.addr (s.slot k).bs i := by
  refine State.load_input hplace h.byte ?_
  rw [← Nat.succ_mul]
  exact (Nat.mul_le_mul_right _ hi).trans (Nat.div_mul_le_self _ _)

/-- The counter of a slot with all its units spent. -/
theorem sub_ofNat_toNat (c : BitVec 64) : c - BitVec.ofNat 64 c.toNat = 0 := by simp

theorem Slot.spent_all (sl : Slot) {r : Nat} (hr : r = sl.resourceCounter.toNat) :
    sl.spent r = { sl with resourceCounter := 0 } := by
  rw [Slot.spent, hr, sub_ofNat_toNat]

/-! #### ECB -/

/-- One block of ECB while units are left. -/
theorem ecbBody_ok (dir : Direction) {out : Nat → List Byte} {i : Nat} {j : Job}
    (hplace : s.buf0.AliasOrApart s.buf1.addr s.buf0.len) (hi : i < (s.slot k).resourceCounter.toNat)
    (hm : i < s.buf0.len / (s.slot k).bs) (h : AfterBlocks s k (s.slot k).spent out i j) :
    ecbBody dir k s.buf0.addr s.buf1.addr (s.slot k).bs i j =
      .ok ⟨(j.st.setSlot k ((s.slot k).spent (i + 1))).store (s.buf1.addr + i * (s.slot k).bs) (s.slot k).bs
        (blockOp dir s.par s.tbl (s.slot k) (s.block s.buf0.addr (s.slot k).bs i)), j.done + 1⟩ := by
  rw [ecbBody, h.load_input hplace hm, h.blockCall dir _ (counter_spend hi le_rfl).1, Slot.spent_spend _ hi le_rfl]
  rfl

/-- `ECB_ENC` and `ECB_DEC` with a counter that runs out. -/
theorem ecbCommand_runsOut (dir : Direction) {r : Nat} (hk : s.Keyed k) (hv : modeVerdict (.ecbEnc k) k s = .go)
    (hr : r = (s.slot k).resourceCounter.toNat) (hm : r < s.buf0.len / (s.slot k).bs) :
    ∃ t, ecbCommand dir k s = .next t ∧
      t = s.runsOut k { s.slot k with resourceCounter := 0 } t.mem r (s.buf0.len / (s.slot k).bs) ∧
      (∀ n, n < r →
        t.block s.buf1.addr (s.slot k).bs n =
          blockOp dir s.par s.tbl (s.slot k) (s.block s.buf0.addr (s.slot k).bs n)) ∧
      ∀ a, (a < s.buf1.addr ∨ s.buf1.addr + r * (s.slot k).bs ≤ a) → t.byte a = s.byte a := by
  obtain ⟨hf, hp, hshape, -⟩ := hk
  have hplace := place_of_modeVerdict hv rfl
  have hspent := (s.slot k).spent_all hr
  have hfirst := AfterBlocks.first s k (s.slot k).spent
    fun n => blockOp dir s.par s.tbl (s.slot k) (s.block s.buf0.addr (s.slot k).bs n)
  rw [Slot.spent_zero, State.setSlot_slot] at hfirst
  obtain ⟨j, hloop, hj⟩ := blocksLoop_runsOut (body := ecbBody dir k s.buf0.addr s.buf1.addr (s.slot k).bs)
    (I := AfterBlocks s k _ _) hm
    (fun i j hi hj => ⟨_, ecbBody_ok dir hplace (hr ▸ hi) (hi.trans hm) hj, hj.next (blockOp_length hshape _)⟩)
    (fun j hj => by rw [ecbBody, hj.blockCall_exhausted dir _ (by rw [hspent])]) hfirst
  have hexec := (ecbCommand_runsAs dir).passes hf hv
  rw [hloop, hj.runsOut (by exact hp), hspent] at hexec
  exact ⟨_, hexec, rfl, hj.block, hj.byte⟩

/-! #### CBC -/

section
variable {chain out : Nat → List Byte} {r i : Nat} {j : Job}

/-- The block that stands in `iv_buffer` between two blocks. -/
theorem AfterBlocks.chain_eq (h : AfterBlocks s k (fun n => (s.slot k).after n (chain n)) out i j)
    (hlen : ∀ n, (chain n).length = (s.slot k).bs) (hshape : (s.slot k).Shape) :
    (j.st.slot k).chain (s.slot k).bs = chain i := by
  rw [h.slot, ← hlen i]
  exact Slot.chain_after i (by rw [hlen]; exact hshape.bs_le.trans (by decide))

/-- A block call while units are left. -/
theorem AfterBlocks.blockCall_after (h : AfterBlocks s k (fun n => (s.slot k).after n (chain n)) out i j) (dir : Direction)
    (b : List Byte) (hi : i < (s.slot k).resourceCounter.toNat) :
    Machine.blockCall dir k b j =
      .ok (⟨j.st.setSlot k ((s.slot k).after (i + 1) (chain i)), j.done + 1⟩, blockOp dir s.par s.tbl (s.slot k) b) := by
  rw [h.blockCall dir b (counter_spend hi le_rfl).1, Slot.after_spend _ _ hi le_rfl]
  rfl

/-- A mode that keeps a chain block in `iv_buffer`, on a counter of `r` units: `chain n` is the chain block and `out n` the output
of block `n`. -/
theorem cbcCommand_runsOut {body : SlotId → Nat → Nat → Nat → Nat → Job → Except Job Job} (hk : s.Keyed k)
    (hv : modeVerdict (.cbcEnc k) k s = .go) (hr : r = (s.slot k).resourceCounter.toNat)
    (hm : r < s.buf0.len / (s.slot k).bs) (hfirst : chain 0 = s.load s.buf2.addr (s.slot k).bs)
    (hout : ∀ n, (out n).length = (s.slot k).bs)
    (hbody : ∀ i j, i < (s.slot k).resourceCounter.toNat → i < s.buf0.len / (s.slot k).bs →
      AfterBlocks s k (fun n => (s.slot k).after n (chain n)) out i j →
      body k s.buf0.addr s.buf1.addr (s.slot k).bs i j =
        .ok ⟨(j.st.setSlot k ((s.slot k).after (i + 1) (chain (i + 1)))).store (s.buf1.addr + i * (s.slot k).bs)
          (s.slot k).bs (out i), j.done + 1⟩)
    (hstop : ∀ i j, (j.st.slot k).resourceCounter = 0 → body k s.buf0.addr s.buf1.addr (s.slot k).bs i j = .error j) :
    ∃ t, cbcCommand body k s = .next t ∧
      t = s.runsOut k ((s.slot k).after r (chain r)) t.mem r (s.buf0.len / (s.slot k).bs) ∧
      (∀ n, n < r → t.block s.buf1.addr (s.slot k).bs n = out n) ∧
      ∀ a, (a < s.buf1.addr ∨ s.buf1.addr + r * (s.slot k).bs ≤ a) → t.byte a = s.byte a := by
  obtain ⟨hf, hp, -, -⟩ := hk
  have h0 := AfterBlocks.first s k (fun n => (s.slot k).after n (chain n)) out
  have hload : s.setSlot k ((s.slot k).after 0 (chain 0)) = s.loadIv k (s.load s.buf2.addr (s.slot k).bs) := by
    rw [State.loadIv, Slot.loadIv_eq_after (by simp [State.load]), hfirst]
  rw [hload] at h0
  obtain ⟨j, hloop, hj⟩ := blocksLoop_runsOut hm
    (fun i j hi hj => ⟨_, hbody i j (hr ▸ hi) (hi.trans hm) hj, hj.next (hout i)⟩)
    (fun j hj => hstop r j (by rw [hj.slot, hr]; exact sub_ofNat_toNat _)) h0
  have hexec := (cbcCommand_runsAs body).passes hf hv
  rw [hloop, hj.runsOut (by exact hp)] at hexec
  exact ⟨_, hexec, rfl, hj.block, hj.byte⟩

end

/-- The block that `CBC_ENC` combines with input block `n`: the IV for `n = 0`, and output block `n` for input block `n + 1` (R189). -/
def State.cbcChain (s : State) (k : SlotId) : Nat → List Byte
  | 0 => s.block s.buf2.addr (s.slot k).bs 0
  | n + 1 => s.encrypts k (xorBytes (s.block s.buf0.addr (s.slot k).bs n) (s.cbcChain k n))

theorem State.length_cbcChain (hshape : (s.slot k).Shape) (n : Nat) : (s.cbcChain k n).length = (s.slot k).bs := by
  cases n with
  | zero => simp [State.cbcChain, State.load]
  | succ n => exact blockOp_length (dir := .encrypt) hshape _

/-- One block of CBC encryption while units are left. -/
theorem cbcEncBody_ok {i : Nat} {j : Job} (hplace : s.buf0.AliasOrApart s.buf1.addr s.buf0.len) (hshape : (s.slot k).Shape)
    (hi : i < (s.slot k).resourceCounter.toNat) (hm : i < s.buf0.len / (s.slot k).bs)
    (h : AfterBlocks s k (fun n => (s.slot k).after n (s.cbcChain k n)) (fun n => s.cbcChain k (n + 1)) i j) :
    cbcEncBody k s.buf0.addr s.buf1.addr (s.slot k).bs i j =
      .ok ⟨(j.st.setSlot k ((s.slot k).after (i + 1) (s.cbcChain k (i + 1)))).store (s.buf1.addr + i * (s.slot k).bs)
        (s.slot k).bs (s.cbcChain k (i + 1)), j.done + 1⟩ := by
  have hlen := State.length_cbcChain hshape
  have hout : blockOp .encrypt s.par s.tbl (s.slot k) (xorBytes (s.block s.buf0.addr (s.slot k).bs i) (s.cbcChain k i)) =
      s.cbcChain k (i + 1) := rfl
  simp only [cbcEncBody]
  rw [h.load_input hplace hm, h.chain_eq hlen hshape, h.blockCall_after .encrypt _ hi, hout]
  simp only [State.slot_setSlot_same, State.setSlot_setSlot]
  rw [List.take_of_length_le (hlen (i + 1)).le, Slot.setChain_after _ ((hlen i).trans (hlen (i + 1)).symm)]

theorem cbcEncBody_stop {src dst bs : Nat} (i : Nat) (j : Job) (hc : (j.st.slot k).resourceCounter = 0) :
    cbcEncBody k src dst bs i j = .error j := by
  simp only [cbcEncBody, blockCall_exhausted hc]

/-- One block of CBC decryption while units are left. -/
theorem cbcDecBody_ok {i : Nat} {j : Job} (hplace : s.buf0.AliasOrApart s.buf1.addr s.buf0.len) (hshape : (s.slot k).Shape)
    (hi : i < (s.slot k).resourceCounter.toNat) (hm : i < s.buf0.len / (s.slot k).bs)
    (h : AfterBlocks s k (fun n => (s.slot k).after n (s.cipherChain k n)) (s.cbcPlain k) i j) :
    cbcDecBody k s.buf0.addr s.buf1.addr (s.slot k).bs i j =
      .ok ⟨(j.st.setSlot k ((s.slot k).after (i + 1) (s.cipherChain k (i + 1)))).store (s.buf1.addr + i * (s.slot k).bs)
        (s.slot k).bs (s.cbcPlain k i), j.done + 1⟩ := by
  have hlen := State.length_cipherChain (s := s) (k := k)
  have hleft : ((s.slot k).after (i + 1) (s.cipherChain k i)).setChain (s.block s.buf0.addr (s.slot k).bs i) =
      (s.slot k).after (i + 1) (s.cipherChain k (i + 1)) :=
    Slot.setChain_after _ ((hlen i).trans (hlen (i + 1)).symm)
  simp only [cbcDecBody]
  rw [h.load_input hplace hm, h.chain_eq hlen hshape, h.blockCall_after .decrypt _ hi]
  simp only [State.slot_setSlot_same, State.setSlot_setSlot, hleft]
  rfl

theorem cbcDecBody_stop {src dst bs : Nat} (i : Nat) (j : Job) (hc : (j.st.slot k).resourceCounter = 0) :
    cbcDecBody k src dst bs i j = .error j := by
  simp only [cbcDecBody, blockCall_exhausted hc]

/-- `CBC_ENC` with a counter that runs out. -/
theorem execCbcEnc_runsOut {r : Nat} (hk : s.Keyed k) (hv : modeVerdict (.cbcEnc k) k s = .go)
    (hr : r = (s.slot k).resourceCounter.toNat) (hm : r < s.buf0.len / (s.slot k).bs) :
    ∃ t, execCbcEnc k s = .next t ∧
      t = s.runsOut k ((s.slot k).after r (t.block s.buf1.addr (s.slot k).bs (r - 1))) t.mem r
        (s.buf0.len / (s.slot k).bs) ∧
      (∀ n, n < r →
        t.block s.buf1.addr (s.slot k).bs n =
          s.encrypts k (xorBytes (s.block s.buf0.addr (s.slot k).bs n)
            (if n = 0 then s.block s.buf2.addr (s.slot k).bs 0
              else t.block s.buf1.addr (s.slot k).bs (n - 1)))) ∧
      ∀ a, (a < s.buf1.addr ∨ s.buf1.addr + r * (s.slot k).bs ≤ a) → t.byte a = s.byte a := by
  have hplace := place_of_modeVerdict hv rfl
  have hpos : r ≠ 0 := hr ▸ counter_ne_zero_of_modeVerdict hv (Nat.zero_lt_of_lt hm)
  have ⟨_, _, hshape, _⟩ := hk
  obtain ⟨t, hexec, ht, hblock, hrest⟩ := cbcCommand_runsOut (body := cbcEncBody) (chain := s.cbcChain k)
    (out := fun n => s.cbcChain k (n + 1)) hk hv hr hm (by simp [State.cbcChain, State.block])
    (fun n => State.length_cbcChain hshape _) (fun i j hi hm' hj => cbcEncBody_ok hplace hshape hi hm' hj) cbcEncBody_stop
  have hprev : ∀ n, n ≤ r → n ≠ 0 → t.block s.buf1.addr (s.slot k).bs (n - 1) = s.cbcChain k n := fun n hn h0 => by
    rw [hblock (n - 1) (by omega), Nat.sub_add_cancel (Nat.pos_of_ne_zero h0)]
  refine ⟨t, hexec, ?_, fun n hn => ?_, hrest⟩
  · rw [hprev r le_rfl hpos]
    exact ht
  · rw [hblock n hn, State.cbcChain]
    split
    · next h0 => rw [h0, State.cbcChain]
    · next h0 => rw [hprev n hn.le h0]

/-- `CBC_DEC` with a counter that runs out. -/
theorem execCbcDec_runsOut {r : Nat} (hk : s.Keyed k) (hv : modeVerdict (.cbcDec k) k s = .go)
    (hr : r = (s.slot k).resourceCounter.toNat) (hm : r < s.buf0.len / (s.slot k).bs) :
    ∃ t, execCbcDec k s = .next t ∧
      t = s.runsOut k ((s.slot k).after r (s.block s.buf0.addr (s.slot k).bs (r - 1))) t.mem r
        (s.buf0.len / (s.slot k).bs) ∧
      (∀ n, n < r → t.block s.buf1.addr (s.slot k).bs n = s.cbcPlain k n) ∧
      ∀ a, (a < s.buf1.addr ∨ s.buf1.addr + r * (s.slot k).bs ≤ a) → t.byte a = s.byte a := by
  have hplace := place_of_modeVerdict hv rfl
  have hpos : r ≠ 0 := hr ▸ counter_ne_zero_of_modeVerdict hv (Nat.zero_lt_of_lt hm)
  have ⟨_, _, hshape, _⟩ := hk
  have hlast : s.cipherChain k r = s.block s.buf0.addr (s.slot k).bs (r - 1) := if_neg hpos
  rw [← hlast]
  exact cbcCommand_runsOut hk hv hr hm (by simp [State.cipherChain, State.block]) (State.length_cbcPlain hshape)
    (fun i j hi hm' hj => cbcDecBody_ok hplace hshape hi hm' hj) cbcDecBody_stop

end

end Sys2Proof.Machine
end

section
/-! ### CTR and CTR_ACPKM: the job byte by byte (43_modes.md R192 to R196) -/

namespace Sys2Proof.Machine

/-! #### Counter blocks (R192, R193) -/

theorem length_incLittle (b : List Byte) : (incLittle b).length = b.length := by
  induction b with
  | nil => rfl
  | cons x xs ih =>
    rw [incLittle]
    split <;> simp [ih]

theorem length_incBlock (b : List Byte) : (incBlock b).length = b.length := by
  simp [incBlock, length_incLittle]

theorem State.counterBlock_succ (s : State) (bs n : Nat) : s.counterBlock bs (n + 1) = incBlock (s.counterBlock bs n) :=
  Function.iterate_succ_apply' _ _ _

theorem State.length_counterBlock (s : State) {bs : Nat} (h : s.buf2.len ≤ bs) (n : Nat) : (s.counterBlock bs n).length = bs := by
  induction n with
  | zero => simp [State.counterBlock, State.load, h]
  | succ n ih => rw [State.counterBlock_succ, length_incBlock, ih]

/-- A byte of a bytewise XOR. -/
theorem xorBytes_getD {a b : List Byte} {q : Nat} (ha : q < a.length) (hb : q < b.length) :
    (xorBytes a b).getD q 0 = a.getD q 0 ^^^ b.getD q 0 := by
  simp [xorBytes, ha, hb]

/-! #### What passed checks give -/

/-- What the checks of `CTR` and `CTR_ACPKM` give: a slot of proper shape, a place for the output, and an IV of at most one block. -/
structure Streaming (s : State) (k : SlotId) : Prop where
  shape : (s.slot k).Shape
  place : s.buf0.AliasOrApart s.buf1.addr s.buf0.len
  iv : s.buf2.len ≤ (s.slot k).bs

section
variable {s : State} {k : SlotId}

theorem Streaming.of_modeVerdict {i : Instr} (hi : i = .ctr k ∨ i = .ctrAcpkm k) (hshape : (s.slot k).Shape)
    (hv : modeVerdict i k s = .go) : Streaming s k := by
  obtain ⟨-, hiv, -⟩ := operands_of_modeVerdict hv
  refine ⟨hshape, place_of_modeVerdict hv ?_, ?_⟩
  · obtain rfl | rfl := hi <;> rfl
  · obtain rfl | rfl := hi
    all_goals
      simp only [badIv, Bool.or_eq_false_iff, decide_eq_false_iff_not, gt_iff_lt, not_lt] at hiv
      exact hiv.2

/-! #### The job after some bytes -/

/-- The job `j` of a command on `s` that has made `c` block calls and written `n` bytes: the slot is `sl`, the bytes of the output so
far are `out`, and every other byte of memory and all other state are those of `s`. -/
structure AfterBytes (s : State) (k : SlotId) (sl : Slot) (out : Nat → Byte) (c n : Nat) (j : Job) : Prop where
  done : j.done = c
  state : j.st = { s with mem := j.st.mem }.setSlot k sl
  written : ∀ o, o < n → j.st.byte (s.buf1.addr + o) = out o
  rest : ∀ a, (a < s.buf1.addr ∨ s.buf1.addr + n ≤ a) → j.st.byte a = s.byte a

variable {sl : Slot} {out : Nat → Byte} {c n : Nat} {j : Job}

theorem AfterBytes.slot (h : AfterBytes s k sl out c n j) : j.st.slot k = sl := by rw [h.state, State.slot_setSlot_same]

theorem AfterBytes.par (h : AfterBytes s k sl out c n j) : j.st.par = s.par := by rw [h.state]; rfl

theorem AfterBytes.tbl (h : AfterBytes s k sl out c n j) : j.st.tbl = s.tbl := by rw [h.state]; rfl

/-- Nothing has been written before the first byte. -/
theorem AfterBytes.first (s : State) (k : SlotId) (sl : Slot) (out : Nat → Byte) :
    AfterBytes s k sl out 0 0 ⟨s.setSlot k sl, 0⟩ where
  done := rfl
  state := rfl
  written o ho := absurd ho o.not_lt_zero
  rest _ _ := rfl

/-- Block calls and a new value of the slot. -/
theorem AfterBytes.setSlot (h : AfterBytes s k sl out c n j) (sl' : Slot) (m : Nat) :
    AfterBytes s k sl' out (c + m) n ⟨j.st.setSlot k sl', j.done + m⟩ where
  done := congrArg (· + m) h.done
  state := by
    rw [h.state]
    simp [State.setSlot]
  written := h.written
  rest := h.rest

/-- The next `w` bytes of the output are stored. -/
theorem AfterBytes.store (h : AfterBytes s k sl out c n j) {v : List Byte} {w : Nat} (hw : v.length = w)
    (hout : ∀ q, q < w → v.getD q 0 = out (n + q)) :
    AfterBytes s k sl out c (n + w) ⟨j.st.store (s.buf1.addr + n) w v, j.done⟩ where
  done := h.done
  state := by
    rw [h.state]
    rfl
  written o ho := by
    by_cases hlt : o < n
    · exact (State.byte_store_outside _ (by omega)).trans (h.written o hlt)
    · obtain ⟨q, rfl⟩ := Nat.exists_eq_add_of_le (not_lt.mp hlt)
      rw [← hout q (by omega), ← Nat.add_assoc]
      exact State.byte_store_inside _ hw (by omega)
  rest a ha := (State.byte_store_outside _ (by omega)).trans (h.rest a (by omega))

/-- The two ends of a command at work. -/
theorem AfterBytes.succeeds (h : AfterBytes s k sl out c n j) (hp : sl.present = true) :
    finishJob k c (.ok j) = s.done k sl j.st.mem c := by
  rw [finishJob, h.done, h.state, State.succeed_setSlot hp]
  rfl

theorem AfterBytes.runsOut (h : AfterBytes s k sl out c n j) (hp : sl.present = true) (m : Nat) :
    finishJob k m (.error j) = s.runsOut k sl j.st.mem c m := by
  rw [finishJob, h.done, h.state, State.raise_setSlot hp]
  rfl

/-- An encryption while units are left, between two counter blocks. -/
theorem AfterBytes.blockCall_after {base : Slot} {chain : List Byte} (h : AfterBytes s k (base.after c chain) out c n j)
    (b : List Byte) (hc : c < base.resourceCounter.toNat) :
    blockCall .encrypt k b j =
      .ok (⟨j.st.setSlot k (base.after (c + 1) chain), j.done + 1⟩, encryptBlock s.par s.tbl base b) := by
  have hcounter : (j.st.slot k).resourceCounter ≠ 0 := by rw [h.slot]; exact (counter_spend hc le_rfl).1
  rw [blockCall_counts hcounter, h.slot, h.par, h.tbl, Slot.after_spend _ _ hc le_rfl]
  rfl

/-! #### One block of CTR -/

/-- The blocks cover the input. -/
theorem le_ceilDiv_mul {len bs : Nat} (hbs : 0 < bs) : len ≤ ceilDiv len bs * bs := by
  have := Nat.lt_mul_div_succ (len + bs - 1) hbs
  rw [Nat.mul_add, Nat.mul_comm] at this
  rw [ceilDiv]
  omega

/-- Every block starts inside the input. -/
theorem mul_lt_of_lt_ceilDiv {len bs i : Nat} (hbs : 0 < bs) (hi : i < ceilDiv len bs) : i * bs < len := by
  have := (Nat.le_div_iff_mul_le hbs).mp (Nat.succ_le_of_lt hi)
  rw [Nat.succ_mul] at this
  omega

/-- A block of CTR under the key of `base`, with the counter block in `iv_buffer` and a unit left: the next counter block is left, and
the bytes of the block are stored, at most to the end of the input (R194). -/
theorem ctrBody_ok {base : Slot} {i : Nat} (hs : Streaming s k) (hshape : base.Shape) (hbs : base.bs = (s.slot k).bs)
    (hi : i < ceilDiv s.buf0.len (s.slot k).bs) (hc : c < base.resourceCounter.toNat)
    (hout : ∀ q, q < (s.slot k).bs → out (i * (s.slot k).bs + q) =
      s.byte (s.buf0.addr + (i * (s.slot k).bs + q)) ^^^
        (encryptBlock s.par s.tbl base (s.counterBlock (s.slot k).bs i)).getD q 0)
    (h : AfterBytes s k (base.after c (s.counterBlock (s.slot k).bs i)) out c (min (i * (s.slot k).bs) s.buf0.len) j) :
    ∃ j', ctrBody k s.buf0.addr s.buf1.addr s.buf0.len (s.slot k).bs i j = .ok j' ∧
      AfterBytes s k (base.after (c + 1) (s.counterBlock (s.slot k).bs (i + 1))) out (c + 1)
        (min ((i + 1) * (s.slot k).bs) s.buf0.len) j' := by
  have hstart := mul_lt_of_lt_ceilDiv hs.shape.bs_pos hi
  have hlen := s.length_counterBlock hs.iv
  have hend : min ((i + 1) * (s.slot k).bs) s.buf0.len =
      i * (s.slot k).bs + min (s.slot k).bs (s.buf0.len - i * (s.slot k).bs) := by
    rw [Nat.succ_mul]
    omega
  rw [min_eq_left hstart.le] at h
  rw [hend]
  generalize hw : min (s.slot k).bs (s.buf0.len - i * (s.slot k).bs) = w
  have hg : (encryptBlock s.par s.tbl base (s.counterBlock (s.slot k).bs i)).length = (s.slot k).bs :=
    (blockOp_length (dir := .encrypt) hshape _).trans hbs
  have hload : j.st.load (s.buf0.addr + i * (s.slot k).bs) w = s.load (s.buf0.addr + i * (s.slot k).bs) w :=
    State.load_input hs.place h.rest (by omega)
  have hread : (j.st.slot k).chain (s.slot k).bs = s.counterBlock (s.slot k).bs i := by
    have hread := Slot.chain_after (sl := base) c ((hlen i).trans_le (hs.shape.bs_le.trans (by decide)))
    rwa [hlen, ← h.slot] at hread
  have hleft : (base.after (c + 1) (s.counterBlock (s.slot k).bs i)).setChain (incBlock (s.counterBlock (s.slot k).bs i)) =
      base.after (c + 1) (s.counterBlock (s.slot k).bs (i + 1)) := by
    rw [State.counterBlock_succ, Slot.setChain_after _ (length_incBlock _).symm]
  refine ⟨_, ?_, (h.setSlot _ 1).store (v := xorBytes (s.load (s.buf0.addr + i * (s.slot k).bs) w)
    (encryptBlock s.par s.tbl base (s.counterBlock (s.slot k).bs i))) ?_ fun q hq => ?_⟩
  · simp only [ctrBody, hw]
    rw [hload, hread, h.blockCall_after _ hc]
    simp only [State.slot_setSlot_same, State.setSlot_setSlot, hleft]
  · simp only [xorBytes, List.length_zipWith, hg, State.load, Memory.length_readBytes]
    omega
  · rw [xorBytes_getD (by simpa [State.load] using hq) (by omega), s.load_getD hq, hout q (by omega), Nat.add_assoc]

/-- Without a unit left the block is not encrypted and nothing changes. -/
theorem ctrBody_stop {src dst len bs : Nat} (i : Nat) (j : Job) (hc : (j.st.slot k).resourceCounter = 0) :
    ctrBody k src dst len bs i j = .error j := by
  simp only [ctrBody, blockCall_exhausted hc]

/-! #### CTR -/

/-- Output byte `o` of `CTR`. -/
def State.ctrByte (s : State) (k : SlotId) (o : Nat) : Byte :=
  s.byte (s.buf0.addr + o) ^^^
    (s.encrypts k (s.counterBlock (s.slot k).bs (o / (s.slot k).bs))).getD (o % (s.slot k).bs) 0

/-- The counter block is loaded, nothing spent. -/
theorem State.loadIv_counterBlock (h : s.buf2.len ≤ (s.slot k).bs) :
    s.loadIv k (firstCounter s s.buf2 (s.slot k).bs) = s.setSlot k ((s.slot k).after 0 (s.counterBlock (s.slot k).bs 0)) := by
  rw [State.loadIv, ← Slot.loadIv_eq_after (s.length_counterBlock h 0)]
  rfl

/-- Byte `q` of block `i` among all bytes. -/
theorem block_byte {bs i q : Nat} (hq : q < bs) : (i * bs + q) / bs = i ∧ (i * bs + q) % bs = q := by
  rw [Nat.add_comm, Nat.add_mul_div_right _ _ (by omega), Nat.add_mul_mod_self_right, Nat.div_eq_of_lt hq, Nat.mod_eq_of_lt hq,
    Nat.zero_add]
  exact ⟨rfl, rfl⟩

/-- `CTR` with a counter that runs out. -/
theorem execCtr_runsOut {r : Nat} (hk : s.Keyed k) (hv : modeVerdict (.ctr k) k s = .go)
    (hr : r = (s.slot k).resourceCounter.toNat) (hm : r < ceilDiv s.buf0.len (s.slot k).bs) :
    ∃ t, execCtr k s = .next t ∧
      t = s.runsOut k ((s.slot k).after r (s.counterBlock (s.slot k).bs r)) t.mem r (ceilDiv s.buf0.len (s.slot k).bs) ∧
      (∀ o, o < r * (s.slot k).bs → t.byte (s.buf1.addr + o) = s.ctrByte k o) ∧
      ∀ a, (a < s.buf1.addr ∨ s.buf1.addr + r * (s.slot k).bs ≤ a) → t.byte a = s.byte a := by
  obtain ⟨hf, hp, hshape, -⟩ := hk
  have hs := Streaming.of_modeVerdict (.inl rfl) hshape hv
  have hfirst := AfterBytes.first s k ((s.slot k).after 0 (s.counterBlock (s.slot k).bs 0)) (s.ctrByte k)
  obtain ⟨j, hloop, hj⟩ := blocksLoop_runsOut (body := ctrBody k s.buf0.addr s.buf1.addr s.buf0.len (s.slot k).bs)
    (I := fun i => AfterBytes s k ((s.slot k).after i (s.counterBlock (s.slot k).bs i)) (s.ctrByte k) i
      (min (i * (s.slot k).bs) s.buf0.len)) hm
    (fun i j hi hj => ctrBody_ok hs hshape rfl (hi.trans hm) (hr ▸ hi)
      (fun q hq => by rw [State.ctrByte, (block_byte hq).1, (block_byte hq).2]; rfl) hj)
    (fun j hj => ctrBody_stop r j (by rw [hj.slot, hr]; exact sub_ofNat_toNat _)) (by simpa using hfirst)
  rw [min_eq_left (mul_lt_of_lt_ceilDiv hshape.bs_pos hm).le] at hj
  have hexec := execCtr_runsAs.passes hf hv
  rw [State.loadIv_counterBlock hs.iv, hloop, hj.runsOut (by exact hp)] at hexec
  exact ⟨_, hexec, rfl, hj.written, hj.rest⟩

end
end Sys2Proof.Machine
end

section
/-! ### CTR_ACPKM: a fresh key for every section (43_modes.md R196, 41_key_object.md R137) -/

namespace Sys2Proof.Machine

/-! #### The keys of the sections -/

/-- The next key does not depend on the counter and the IV, and leaves them (R137). -/
theorem nextKeySlot_after (par : Params) (tbl : TableSet) (sl : Slot) (c : Nat) (b : List Byte) :
    nextKeySlot par tbl (sl.after c b) = (nextKeySlot par tbl sl).after c b := by
  have hkey : nextKey par tbl (sl.after c b) = nextKey par tbl sl := rfl
  rw [nextKeySlot, hkey, nextKeySlot]
  generalize nextKey par tbl sl = kb
  cases h : sl.kind <;> simp only [Slot.scheduleKeys, Slot.after, h] <;> rfl

/-- The slot of `CTR_ACPKM` in section `d`, its counter and IV aside. -/
def State.sectionSlot (s : State) (k : SlotId) (d : Nat) : Slot := (nextKeySlot s.par s.tbl)^[d] (s.slot k)

section
variable {s : State} {k : SlotId}

theorem State.sectionSlot_succ (d : Nat) : s.sectionSlot k (d + 1) = nextKeySlot s.par s.tbl (s.sectionSlot k d) :=
  Function.iterate_succ_apply' _ _ _

/-- The keys of later sections change the key, its tag and the round keys alone. -/
theorem State.sectionSlot_eq (d : Nat) : ∃ key tag rk nrk set, s.sectionSlot k d =
    { s.slot k with key := key, keyTag := tag, rk := rk, nrk := nrk, keySet := set } := by
  induction d with
  | zero => exact ⟨_, _, _, _, _, rfl⟩
  | succ d ih =>
    obtain ⟨_, _, _, _, _, h⟩ := ih
    obtain ⟨_, _, _, _, hnext⟩ := nextKeySlot_eq s.par s.tbl (s.sectionSlot k d)
    exact ⟨_, _, _, _, _, by rw [State.sectionSlot_succ, hnext, h]⟩

theorem State.sectionSlot_shape (h : (s.slot k).Shape) (d : Nat) : (s.sectionSlot k d).Shape := by
  obtain ⟨_, _, _, _, _, hd⟩ := s.sectionSlot_eq (k := k) d
  rw [hd]
  exact h

theorem State.sectionSlot_bs (d : Nat) : (s.sectionSlot k d).bs = (s.slot k).bs := by
  obtain ⟨_, _, _, _, _, hd⟩ := s.sectionSlot_eq (k := k) d
  rw [hd]
  rfl

theorem State.sectionSlot_present (d : Nat) : (s.sectionSlot k d).present = (s.slot k).present := by
  obtain ⟨_, _, _, _, _, hd⟩ := s.sectionSlot_eq (k := k) d
  rw [hd]

theorem State.sectionSlot_counter (d : Nat) : (s.sectionSlot k d).resourceCounter = (s.slot k).resourceCounter := by
  obtain ⟨_, _, _, _, _, hd⟩ := s.sectionSlot_eq (k := k) d
  rw [hd]

theorem State.sectionSlot_derivationBlocks (d : Nat) :
    (s.sectionSlot k d).derivationBlocks = (s.slot k).derivationBlocks := by
  obtain ⟨_, _, _, _, _, hd⟩ := s.sectionSlot_eq (k := k) d
  rw [hd]
  rfl

/-! #### The job before a block -/

/-- Output byte `o` of `CTR_ACPKM`. -/
def State.acpkmByte (s : State) (k : SlotId) (o : Nat) : Byte :=
  s.byte (s.buf0.addr + o) ^^^
    (encryptBlock s.par s.tbl (s.sectionSlot k (o / (s.slot k).bs / s.extra))
      (s.counterBlock (s.slot k).bs (o / (s.slot k).bs))).getD (o % (s.slot k).bs) 0

/-- The block calls of `CTR_ACPKM` for `i` blocks and `d` derivations. -/
def State.sectionCalls (s : State) (k : SlotId) (i d : Nat) : Nat := i + (s.slot k).derivationBlocks * d

theorem State.sectionCalls_succ (i d : Nat) : s.sectionCalls k i (d + 1) = s.sectionCalls k i d + (s.slot k).derivationBlocks := by
  rw [State.sectionCalls, State.sectionCalls, Nat.mul_succ, Nat.add_assoc]

/-- Units spent after others. -/
theorem Slot.after_spent (sl : Slot) (n m : Nat) (b : List Byte) : (sl.after n b).spent m = sl.after (n + m) b := by
  simp only [Slot.spent, Slot.after, BitVec.ofNat_add, sub_sub]

/-- The job `j` of `CTR_ACPKM` on `s` after `i` blocks and `d` derivations. -/
def AfterSections (s : State) (k : SlotId) (i d : Nat) (j : Job) : Prop :=
  AfterBytes s k ((s.sectionSlot k d).after (s.sectionCalls k i d) (s.counterBlock (s.slot k).bs i)) (s.acpkmByte k)
    (s.sectionCalls k i d) (min (i * (s.slot k).bs) s.buf0.len) j

variable {i d : Nat} {j : Job}

/-- The units left. -/
theorem AfterSections.counter (h : AfterSections s k i d j) (hc : s.sectionCalls k i d ≤ (s.slot k).resourceCounter.toNat) :
    (j.st.slot k).resourceCounter.toNat = (s.slot k).resourceCounter.toNat - s.sectionCalls k i d := by
  have hslot : (j.st.slot k).resourceCounter = (s.slot k).resourceCounter - BitVec.ofNat 64 (s.sectionCalls k i d) := by
    rw [AfterBytes.slot h, Slot.after, State.sectionSlot_counter]
  rw [hslot]
  have := (s.slot k).resourceCounter.isLt
  generalize s.sectionCalls k i d = c at hc ⊢
  bv_omega

/-- A derivation that the counter pays for. -/
theorem AfterSections.derive (h : AfterSections s k i d j) (hshape : (s.slot k).Shape)
    (hc : s.sectionCalls k i (d + 1) ≤ (s.slot k).resourceCounter.toNat) :
    ∃ j', deriveNext k j = .ok j' ∧ AfterSections s k i (d + 1) j' := by
  rw [State.sectionCalls_succ] at hc
  have hslot := AfterBytes.slot h
  have hleft := h.counter (by omega)
  have hblocks : (j.st.slot k).derivationBlocks = (s.slot k).derivationBlocks := by
    rw [hslot, ← s.sectionSlot_derivationBlocks d]
    rfl
  have hpays : (j.st.slot k).derivationBlocks ≤ (j.st.slot k).resourceCounter.toNat := by omega
  have hnext : (nextKeySlot s.par s.tbl (j.st.slot k)).spent (s.slot k).derivationBlocks =
      (s.sectionSlot k (d + 1)).after (s.sectionCalls k i (d + 1)) (s.counterBlock (s.slot k).bs i) := by
    rw [hslot, nextKeySlot_after, State.sectionSlot_succ, State.sectionCalls_succ, Slot.after_spent]
  have hj := AfterBytes.setSlot h
    ((s.sectionSlot k (d + 1)).after (s.sectionCalls k i (d + 1)) (s.counterBlock (s.slot k).bs i))
    (s.slot k).derivationBlocks
  rw [← State.sectionCalls_succ] at hj
  refine ⟨_, deriveNext_ok (by rw [hslot]; exact s.sectionSlot_shape hshape d) hpays, ?_⟩
  rw [hblocks, AfterBytes.par h, AfterBytes.tbl h, hnext]
  exact hj

/-- A derivation that the counter does not pay for. -/
theorem AfterSections.derive_stop (h : AfterSections s k i d j) (hle : s.sectionCalls k i d ≤ (s.slot k).resourceCounter.toNat)
    (hc : (s.slot k).resourceCounter.toNat < s.sectionCalls k i (d + 1)) : deriveNext k j = .error j := by
  rw [State.sectionCalls_succ] at hc
  have hleft := h.counter hle
  have hblocks : (j.st.slot k).derivationBlocks = (s.slot k).derivationBlocks := by
    rw [AfterBytes.slot h, ← s.sectionSlot_derivationBlocks d]
    rfl
  exact deriveNext_error (by omega)

/-- A block in its own section, with a unit left. -/
theorem AfterSections.encrypt (h : AfterSections s k i d j) (hs : Streaming s k) (hi : i < ceilDiv s.buf0.len (s.slot k).bs)
    (hd : d = i / s.extra) (hc : s.sectionCalls k i d < (s.slot k).resourceCounter.toNat) :
    ∃ j', ctrBody k s.buf0.addr s.buf1.addr s.buf0.len (s.slot k).bs i j = .ok j' ∧ AfterSections s k (i + 1) d j' := by
  have hbyte : ∀ q, q < (s.slot k).bs → s.acpkmByte k (i * (s.slot k).bs + q) =
      s.byte (s.buf0.addr + (i * (s.slot k).bs + q)) ^^^
        (encryptBlock s.par s.tbl (s.sectionSlot k d) (s.counterBlock (s.slot k).bs i)).getD q 0 := fun q hq => by
    rw [State.acpkmByte, (block_byte hq).1, (block_byte hq).2, hd]
  obtain ⟨j', hbody, hj'⟩ := ctrBody_ok hs (s.sectionSlot_shape hs.shape d) (s.sectionSlot_bs d) hi
    (by rwa [State.sectionSlot_counter]) hbyte h
  refine ⟨j', hbody, ?_⟩
  rwa [AfterSections, State.sectionCalls, Nat.add_right_comm]

/-! #### One block, its derivation included -/

/-- The job of `CTR_ACPKM` before block `i`, whose derivation is still to come, on a counter that has paid so far. -/
def BeforeBlock (s : State) (k : SlotId) (i : Nat) (j : Job) : Prop :=
  AfterSections s k i ((i - 1) / s.extra) j ∧ s.sectionCalls k i ((i - 1) / s.extra) ≤ (s.slot k).resourceCounter.toNat

/-- The job of `CTR_ACPKM` that `LowKeyResource` ends at block `i`: no unit is left for the block, or too few for the derivation before
it (R196). -/
def StoppedAt (s : State) (k : SlotId) (i : Nat) (j : Job) : Prop :=
  ∃ d, AfterSections s k i d j ∧ s.sectionCalls k i d ≤ (s.slot k).resourceCounter.toNat ∧
    ((d = i / s.extra ∧ (s.slot k).resourceCounter.toNat = s.sectionCalls k i d) ∨
      (0 < i ∧ i % s.extra = 0 ∧ i / s.extra = d + 1 ∧
        (s.slot k).resourceCounter.toNat < s.sectionCalls k i (d + 1)))

/-- The section of a block is that of the block before it, or the next one if a section starts with it. -/
theorem div_of_section_start (i e : Nat) :
    i / e = if 0 < i ∧ i % e = 0 then (i - 1) / e + 1 else (i - 1) / e := by
  cases i with
  | zero => simp
  | succ i =>
    rw [Nat.succ_div]
    simp only [Nat.succ_pos, true_and, Nat.dvd_iff_mod_eq_zero, Nat.add_sub_cancel]
    split <;> rfl

/-- A block of `CTR_ACPKM` is done, or ends the command. -/
theorem acpkmBody_ends (hs : Streaming s k) (hi : i < ceilDiv s.buf0.len (s.slot k).bs)
    (h : BeforeBlock s k i j) :
    (∃ j', acpkmBody s.extra k s.buf0.addr s.buf1.addr s.buf0.len (s.slot k).bs i j = .ok j' ∧ BeforeBlock s k (i + 1) j') ∨
    ∃ j', acpkmBody s.extra k s.buf0.addr s.buf1.addr s.buf0.len (s.slot k).bs i j = .error j' ∧ StoppedAt s k i j' := by
  obtain ⟨hj, hle⟩ := h
  have hdiv := div_of_section_start i s.extra
  have hblock : ∀ j1, AfterSections s k i (i / s.extra) j1 →
      s.sectionCalls k i (i / s.extra) ≤ (s.slot k).resourceCounter.toNat →
      (∃ j', ctrBody k s.buf0.addr s.buf1.addr s.buf0.len (s.slot k).bs i j1 = .ok j' ∧ BeforeBlock s k (i + 1) j') ∨
      ∃ j', ctrBody k s.buf0.addr s.buf1.addr s.buf0.len (s.slot k).bs i j1 = .error j' ∧ StoppedAt s k i j' := by
    intro j1 hj1 hle1
    obtain hlt | heq := Nat.lt_or_eq_of_le hle1
    · obtain ⟨j', hb, hj'⟩ := hj1.encrypt hs hi rfl hlt
      refine .inl ⟨j', hb, hj', ?_⟩
      rw [Nat.add_sub_cancel, State.sectionCalls, Nat.add_right_comm]
      exact hlt
    · have hspent : (j1.st.slot k).resourceCounter = 0 :=
        BitVec.eq_of_toNat_eq (by rw [hj1.counter hle1, heq, Nat.sub_self]; rfl)
      exact .inr ⟨j1, ctrBody_stop i j1 hspent, _, hj1, hle1, .inl ⟨rfl, heq.symm⟩⟩
  unfold acpkmBody
  by_cases hstart : 0 < i ∧ i % s.extra = 0
  · rw [if_pos hstart] at hdiv ⊢
    by_cases hc : s.sectionCalls k i (i / s.extra) ≤ (s.slot k).resourceCounter.toNat
    · rw [hdiv] at hc
      obtain ⟨j1, hd, hj1⟩ := hj.derive hs.shape hc
      rw [hd]
      exact hblock j1 (hdiv ▸ hj1) (hdiv ▸ hc)
    · rw [hdiv, not_le] at hc
      rw [hj.derive_stop hle hc]
      exact .inr ⟨j, rfl, _, hj, hle, .inr ⟨hstart.1, hstart.2, hdiv, hc⟩⟩
  · rw [if_neg hstart] at hdiv ⊢
    exact hblock j (hdiv ▸ hj) (hdiv ▸ hle)

/-- The block work of `CTR_ACPKM`. -/
def acpkmWork (s : State) (k : SlotId) : Except Job Job :=
  blocksLoop (acpkmBody s.extra k s.buf0.addr s.buf1.addr s.buf0.len (s.slot k).bs) (ceilDiv s.buf0.len (s.slot k).bs) 0
    ⟨s.loadIv k (firstCounter s s.buf2 (s.slot k).bs), 0⟩

theorem execCtrAcpkm_passes (hf : s.fault = false) (hv : modeVerdict (.ctrAcpkm k) k s = .go) :
    execCtrAcpkm k s = .next (finishJob k (blocksNeeded (.ctrAcpkm k) s) (acpkmWork s k)) :=
  execCtrAcpkm_runsAs.passes hf hv

/-- All blocks are done, or one of them ends the command. -/
theorem acpkmWork_ends (hs : Streaming s k) :
    (∃ j, acpkmWork s k = .ok j ∧ BeforeBlock s k (ceilDiv s.buf0.len (s.slot k).bs) j) ∨
    ∃ i j, i < ceilDiv s.buf0.len (s.slot k).bs ∧ acpkmWork s k = .error j ∧ StoppedAt s k i j := by
  have hfirst : BeforeBlock s k 0 ⟨s.loadIv k (firstCounter s s.buf2 (s.slot k).bs), 0⟩ := by
    rw [State.loadIv_counterBlock hs.iv]
    have h := AfterBytes.first s k ((s.slot k).after 0 (s.counterBlock (s.slot k).bs 0)) (s.acpkmByte k)
    exact ⟨by simpa [AfterSections, State.sectionCalls, State.sectionSlot] using h, by simp [State.sectionCalls]⟩
  exact blocksLoop_ends (fun i j hi hj => acpkmBody_ends hs hi hj) _ 0 _ (Nat.zero_add _) hfirst

/-! #### What the calls add up to -/

theorem State.sectionCalls_mono {i i' d d' : Nat} (hi : i ≤ i') (hd : d ≤ d') : s.sectionCalls k i d ≤ s.sectionCalls k i' d' :=
  Nat.add_le_add hi (Nat.mul_le_mul_left _ hd)

/-- `M` of `CTR_ACPKM` is what all its blocks and the derivations before them take (R181). -/
theorem blocksNeeded_ctrAcpkm : blocksNeeded (.ctrAcpkm k) s =
    s.sectionCalls k (ceilDiv s.buf0.len (s.slot k).bs) ((ceilDiv s.buf0.len (s.slot k).bs - 1) / s.extra) := by
  cases h : ceilDiv s.buf0.len (s.slot k).bs with
  | zero => simp [blocksNeeded, State.sectionCalls, h]
  | succ n => simp [blocksNeeded, State.sectionCalls, h, Slot.derivationBlocks]

/-- A command that is ended early did not have the counter for all its blocks. -/
theorem StoppedAt.counter_lt {i : Nat} {j : Job} (h : StoppedAt s k i j) (hi : i < ceilDiv s.buf0.len (s.slot k).bs) :
    (s.slot k).resourceCounter.toNat < blocksNeeded (.ctrAcpkm k) s := by
  have hdiv : i / s.extra ≤ (ceilDiv s.buf0.len (s.slot k).bs - 1) / s.extra := Nat.div_le_div_right (by omega)
  rw [blocksNeeded_ctrAcpkm]
  obtain ⟨d, -, -, ⟨rfl, hc⟩ | ⟨-, -, hd, hc⟩⟩ := h
  · have hblock : s.sectionCalls k (i + 1) (i / s.extra) ≤ _ := State.sectionCalls_mono hi hdiv
    have hnext : s.sectionCalls k (i + 1) (i / s.extra) = s.sectionCalls k i (i / s.extra) + 1 := Nat.add_right_comm _ _ _
    omega
  · exact hc.trans_le (State.sectionCalls_mono hi.le (hd ▸ hdiv))

end

/-- Settles O39: with a counter for all blocks and derivations none of them ends the command. -/
theorem ctrAcpkmResult : Obligations.CtrAcpkmResult := by
  rintro s k ⟨⟨hf, hp, hshape, -⟩, hv, hc⟩
  have hs := Streaming.of_modeVerdict (.inr rfl) hshape hv
  obtain ⟨j, hwork, hj, -⟩ | ⟨i, j, hi, -, hstop⟩ := acpkmWork_ends hs
  · rw [AfterSections, min_eq_right (le_ceilDiv_mul hshape.bs_pos), ← blocksNeeded_ctrAcpkm] at hj
    have hexec := execCtrAcpkm_passes hf hv
    rw [hwork, hj.succeeds (by exact (s.sectionSlot_present _).trans hp)] at hexec
    exact ⟨_, hexec, rfl, hj.written, hj.rest⟩
  · exact absurd hc (hstop.counter_lt hi).not_ge

/-- `CTR_ACPKM` with a counter that runs out (R196): `n` blocks and `d` derivations are done. -/
theorem execCtrAcpkm_runsOut {s : State} {k : SlotId} (hk : s.Keyed k) (hv : modeVerdict (.ctrAcpkm k) k s = .go)
    (hc : (s.slot k).resourceCounter.toNat < blocksNeeded (.ctrAcpkm k) s) :
    ∃ (n d : Nat) (t : State), n < ceilDiv s.buf0.len (s.slot k).bs ∧
      ((d = n / s.extra ∧ (s.slot k).resourceCounter.toNat = s.sectionCalls k n d) ∨
        (0 < n ∧ n % s.extra = 0 ∧ n / s.extra = d + 1 ∧
          (s.slot k).resourceCounter.toNat < s.sectionCalls k n (d + 1))) ∧
      s.sectionCalls k n d ≤ (s.slot k).resourceCounter.toNat ∧
      execCtrAcpkm k s = .next t ∧
      t = s.runsOut k ((s.sectionSlot k d).after (s.sectionCalls k n d) (s.counterBlock (s.slot k).bs n)) t.mem
        (s.sectionCalls k n d) (blocksNeeded (.ctrAcpkm k) s) ∧
      (∀ o, o < n * (s.slot k).bs → t.byte (s.buf1.addr + o) = s.acpkmByte k o) ∧
      ∀ a, (a < s.buf1.addr ∨ s.buf1.addr + n * (s.slot k).bs ≤ a) → t.byte a = s.byte a := by
  obtain ⟨hf, hp, hshape, -⟩ := hk
  obtain ⟨j, -, -, hle⟩ | ⟨n, j, hn, hwork, d, hj, hle, hwhy⟩ := acpkmWork_ends (Streaming.of_modeVerdict (.inr rfl) hshape hv)
  · exact absurd (blocksNeeded_ctrAcpkm ▸ hle) hc.not_ge
  · rw [AfterSections, min_eq_left (mul_lt_of_lt_ceilDiv hshape.bs_pos hn).le] at hj
    have hexec := execCtrAcpkm_passes hf hv
    rw [hwork, hj.runsOut (by exact (s.sectionSlot_present _).trans hp)] at hexec
    exact ⟨n, d, _, hn, hwhy, hle, hexec, rfl, hj.written, hj.rest⟩

end Sys2Proof.Machine
end

section
/-! ### CMAC with a counter that runs out, and the seven modes together (43_modes.md R184, R201) -/

namespace Sys2Proof.Machine

/-! #### CMAC -/

section
variable {k : SlotId} {j : Job} {n : Nat}

/-- The chain of CMAC over `m` blocks spends `m` units, or all that are left. -/
theorem cmacChain_spend {src bs : Nat} (m : Nat) {i : Nat} {chain : List Byte}
    (hn : n ≤ (j.st.slot k).resourceCounter.toNat) :
    (n + m ≤ (j.st.slot k).resourceCounter.toNat ∧
      ∃ chain', cmacChain k src bs m i chain (j.spend k n) = .ok (j.spend k (n + m), chain')) ∨
    ((j.st.slot k).resourceCounter.toNat < n + m ∧
      cmacChain k src bs m i chain (j.spend k n) = .error (j.spend k (j.st.slot k).resourceCounter.toNat)) := by
  induction m generalizing n i chain with
  | zero => exact .inl ⟨hn, chain, rfl⟩
  | succ m ih =>
    obtain hlt | rfl := Nat.lt_or_eq_of_le hn
    · simp only [cmacChain]
      rw [blockCall_spend .encrypt _ hlt, Nat.add_comm m 1, ← Nat.add_assoc]
      exact ih hlt
    · simp only [cmacChain]
      rw [blockCall_spent .encrypt _ rfl]
      exact .inr ⟨by omega, rfl⟩

/-- The block work of CMAC on too few units spends them all and stores nothing. -/
theorem cmacJob_runsOut {src len dst tagLen bs : Nat} (h : (j.st.slot k).resourceCounter.toNat < cmacBlocks len bs) :
    cmacJob k src len dst tagLen bs j = .error (j.spend k (j.st.slot k).resourceCounter.toNat) := by
  have hspend := blockCall_spend (k := k) (j := j) (n := 0) .encrypt (List.replicate bs 0)
  have hspent := blockCall_spent (k := k) (j := j) (n := (j.st.slot k).resourceCounter.toNat) .encrypt
  rw [Job.spend_zero] at hspend
  rw [cmacBlocks] at h
  unfold cmacJob
  obtain h0 | hpos := Nat.eq_zero_or_pos (j.st.slot k).resourceCounter.toNat
  · rw [h0, Job.spend_zero] at hspent ⊢
    rw [hspent _ rfl]
  · rw [hspend hpos]
    simp only
    obtain ⟨hle, chain, hchain⟩ | ⟨-, hchain⟩ := cmacChain_spend (src := src) (bs := bs) (max 1 (ceilDiv len bs) - 1) (i := 0)
      (chain := List.replicate bs 0) hpos
    · have hall : 0 + 1 + (max 1 (ceilDiv len bs) - 1) = (j.st.slot k).resourceCounter.toNat := by omega
      rw [hchain]
      simp only [hall]
      rw [hspent _ rfl]
    · rw [hchain]

end

theorem execCmac_runsOut {s : State} {k : SlotId} {r : Nat} (hk : s.Keyed k) (hv : modeVerdict (.cmac k) k s = .go)
    (hr : r = (s.slot k).resourceCounter.toNat) (hm : r < blocksNeeded (.cmac k) s) :
    execCmac k s =
      .next (s.runsOut k { s.slot k with resourceCounter := 0 } s.mem r (blocksNeeded (.cmac k) s)) := by
  obtain ⟨hf, hp, -, -⟩ := hk
  subst hr
  refine (execCmac_runsAs.passes hf hv).trans (congrArg _ ?_)
  rw [cmacJob_runsOut (j := ⟨s, 0⟩) hm, finishJob, Job.spend, State.raise_setSlot (by exact hp), Slot.spent_all _ rfl,
    Nat.zero_add]
  rfl

/-! #### The seven modes -/

/-- Settles O41: in each mode the units pay for the blocks before the one that ends the command, and that one changes nothing. -/
theorem lowKeyResourcePrefix : Obligations.LowKeyResourcePrefix := by
  refine ⟨fun s k r hk hv hr hm => ecbCommand_runsOut .encrypt hk hv hr hm,
    fun s k r hk hv hr hm => ecbCommand_runsOut .decrypt hk hv hr hm,
    fun s k r hk hv hr hm => execCbcEnc_runsOut hk hv hr hm,
    fun s k r hk hv hr hm => execCbcDec_runsOut hk hv hr hm,
    fun s k r hk hv hr hm => execCtr_runsOut hk hv hr hm, fun s k hk hv hc => ?_,
    fun s k r hk hv hr hm => execCmac_runsOut hk hv hr hm⟩
  obtain ⟨n, d, t, hn, hwhy, hle, hend⟩ := execCtrAcpkm_runsOut hk hv hc
  refine ⟨n, d, s.sectionCalls k n d, t, hn, ?_, hend⟩
  obtain ⟨rfl, hspent⟩ | ⟨hpos, hstart, hd, hlt⟩ := hwhy
  · exact .inl ⟨hspent, rfl, rfl⟩
  · rw [← hd] at hlt
    refine .inr ⟨hpos, hstart, hlt, by omega, ?_, hle⟩
    exact (State.sectionCalls_succ n d).symm.trans (by rw [← hd]; rfl)

end Sys2Proof.Machine
end

section
/-! ### The table rounds and the tabled binding (42_cipher_core.md R159, R167, R168) -/

namespace Sys2Proof.Machine

/-- Settles O26: the lanes of a table round, and what its entries add up to on a consistent table set. -/
theorem roundTablesEquivalence : Obligations.RoundTablesEquivalence :=
  ⟨fun tbl v i => ⟨roundT_lane tbl v i, invRoundT_lane tbl v i⟩,
    fun _ _ v h8 h => ⟨roundT_eq h8 h v, invRoundT_eq h8 h v⟩⟩

/-- Settles O48: on a consistent table set a slot of kind `B16T` works as the plain operation does, and `B16P` is that operation. -/
theorem tabledIsPlain : Obligations.TabledIsPlain := by
  intro par tbl sl b h8 h
  rw [encryptBlock_b16t_plain h8 h rfl, encryptBlock_b16p rfl, decryptBlock_b16t_plain h8 h rfl, decryptBlock_b16p rfl]
  exact ⟨rfl, rfl⟩

end Sys2Proof.Machine
end

section
/-! ### Encrypting and then decrypting in place: ECB and CBC (42_cipher_core.md R156, 43_modes.md R186 to R190)

The first command leaves a state on which the second one passes its checks with what is left of the counter; block by block
the second undoes the first, and neither writes outside the buffer. -/

namespace Sys2Proof.Machine

/-! #### A mode command after another one on the same slot -/

/-- `t` has the operands and the tables of `s`, and slot `k` of it is that of `s` but for its counter and its IV. -/
structure State.SameOperands (k : SlotId) (s t : State) : Prop where
  p : t.p = s.p
  par : t.par = s.par
  tbl : t.tbl = s.tbl
  fault : t.fault = s.fault
  slot : ∃ c iv len, t.slot k = { s.slot k with resourceCounter := c, ivBuffer := iv, ivLength := len }

@[simp] theorem State.slot_done (s : State) (k : SlotId) (sl : Slot) (mem : List Host.Cell) (n : Nat) :
    (s.done k sl mem n).slot k = sl := by
  simp [State.slot, State.done]

section
variable {s t : State} {k : SlotId} {i : Instr}

/-- What does not read the counter and the IV reads the same of both slots. -/
theorem State.SameOperands.slot_field (h : s.SameOperands k t) {α : Type} (f : Slot → α)
    (hf : ∀ sl c iv len, f { sl with resourceCounter := c, ivBuffer := iv, ivLength := len } = f sl) :
    f (t.slot k) = f (s.slot k) := by
  obtain ⟨c, iv, len, hslot⟩ := h.slot
  rw [hslot, hf]

theorem State.SameOperands.bs (h : s.SameOperands k t) : (t.slot k).bs = (s.slot k).bs :=
  h.slot_field Slot.bs fun _ _ _ _ => rfl

theorem State.SameOperands.buf0 (h : s.SameOperands k t) : t.buf0 = s.buf0 := by rw [State.buf0, h.p]; rfl

theorem State.SameOperands.buf1 (h : s.SameOperands k t) : t.buf1 = s.buf1 := by rw [State.buf1, h.p]; rfl

theorem State.SameOperands.buf2 (h : s.SameOperands k t) : t.buf2 = s.buf2 := by rw [State.buf2, h.p]; rfl

theorem State.SameOperands.extra (h : s.SameOperands k t) : t.extra = s.extra := by rw [State.extra, h.p]; rfl

theorem State.SameOperands.decrypts (h : s.SameOperands k t) (b : List Byte) : t.decrypts k b = s.decrypts k b := by
  rw [State.decrypts, h.par, h.tbl]
  exact h.slot_field (fun sl => decryptBlock s.par s.tbl sl b) fun _ _ _ _ => rfl

theorem State.SameOperands.blocksNeeded (h : s.SameOperands k t) (hi : i.modeSlot = some k) :
    blocksNeeded i t = blocksNeeded i s := by
  have hkey : (t.slot k).keyLen = (s.slot k).keyLen := h.slot_field Slot.keyLen fun _ _ _ _ => rfl
  cases i <;> cases hi <;> simp only [Machine.blocksNeeded, h.buf0, h.extra, h.bs, hkey]

/-- A mode whose checks pass on `s` passes them on `t` if the counter is not used up. -/
theorem State.SameOperands.modeVerdict_eq_go (h : s.SameOperands k t) (hi : i.modeSlot = some k)
    (hv : modeVerdict i k s = .go) (hc : 0 < Machine.blocksNeeded i s → (t.slot k).resourceCounter ≠ 0) :
    modeVerdict i k t = .go := by
  have hpresent : (t.slot k).present = (s.slot k).present := h.slot_field Slot.present fun _ _ _ _ => rfl
  have hkind : (t.slot k).kind = (s.slot k).kind := h.slot_field Slot.kind fun _ _ _ _ => rfl
  have hkey : (t.slot k).keySet = (s.slot k).keySet := h.slot_field Slot.keySet fun _ _ _ _ => rfl
  have hout : outBytes i t = outBytes i s := by cases i <;> cases hi <;> simp only [outBytes, h.buf0, h.extra]
  have hplace : wellPlaced i t = wellPlaced i s := by unfold wellPlaced; rw [h.buf0, h.buf1, h.buf2, hout]
  have hops : zeroLength i t = zeroLength i s ∧ unaligned i t = unaligned i s ∧ badIv i t = badIv i s ∧
      badTag i t = badTag i s ∧ modeBuffers i t = modeBuffers i s ∧ longEnough i t = longEnough i s := by
    cases i <;> cases hi <;>
      simp only [zeroLength, unaligned, badIv, badTag, modeBuffers, longEnough, h.buf0, h.buf1, h.buf2, h.extra, h.bs, and_self]
  obtain ⟨hzero, halign, hiv, htag, hbufs, hlong⟩ := hops
  have hs : ¬ (0 < Machine.blocksNeeded i s ∧ (s.slot k).resourceCounter = 0) := fun ⟨hm, h0⟩ =>
    counter_ne_zero_of_modeVerdict hv hm (congrArg BitVec.toNat h0)
  have ht : ¬ (0 < Machine.blocksNeeded i s ∧ (t.slot k).resourceCounter = 0) := fun ⟨hm, h0⟩ => hc hm h0
  unfold modeVerdict at hv ⊢
  rw [if_neg hs] at hv
  rw [h.blocksNeeded hi, if_neg ht, hpresent, hkind, hkey, h.par, h.buf0, h.buf1, hzero, halign, hiv, htag, hout, hbufs, hlong,
    hplace]
  exact hv

/-- A mode that is ready on `s` is ready on `t` if the counter left there suffices. -/
theorem State.SameOperands.modeReady (h : s.SameOperands k t) (hi : i.modeSlot = some k) (hs : ModeReady i k s)
    (hc : Machine.blocksNeeded i s ≤ (t.slot k).resourceCounter.toNat) : ModeReady i k t := by
  obtain ⟨⟨hf, hp, hshape, hkey⟩, hv, -⟩ := hs
  refine ⟨⟨h.fault.trans hf, ?_, ?_, ?_⟩, h.modeVerdict_eq_go hi hv fun hm h0 => ?_, (h.blocksNeeded hi).trans_le hc⟩
  · exact (h.slot_field Slot.present fun _ _ _ _ => rfl).trans hp
  · exact (h.slot_field Slot.Shape fun _ _ _ _ => rfl).mpr hshape
  · exact (h.slot_field Slot.keySet fun _ _ _ _ => rfl).trans hkey
  · rw [h0] at hc
    exact hm.not_ge hc

/-- After `n` block calls that leave the units it needs, a mode that was ready is ready again, whatever they have left in
`iv_buffer` and in memory. -/
theorem ModeReady.again (h : ModeReady i k s) (hi : i.modeSlot = some k) {n m : Nat} {sl : Slot} {mem : List Host.Cell}
    {iv : Vector Byte 64} {len : BitVec 8} (ht : t = s.done k sl mem m)
    (hsl : sl = { (s.slot k).spent n with ivBuffer := iv, ivLength := len })
    (hn : n + blocksNeeded i s ≤ (s.slot k).resourceCounter.toNat) : s.SameOperands k t ∧ ModeReady i k t := by
  have hslot : t.slot k = { (s.slot k).spent n with ivBuffer := iv, ivLength := len } := by rw [ht, State.slot_done, hsl]
  have hops : s.SameOperands k t := by
    subst ht
    exact ⟨rfl, rfl, rfl, rfl, _, iv, len, hslot⟩
  refine ⟨hops, hops.modeReady hi h ?_⟩
  rw [hslot, Slot.spent]
  have hc := (s.slot k).resourceCounter.isLt
  bv_omega

/-! #### Blocks of memory -/

/-- Memory that agrees on each block of a range and outside the range agrees everywhere. -/
theorem State.byte_eq_of_blocks {addr len bs m : Nat} (hlen : len = m * bs)
    (hblock : ∀ n, n < m → t.block addr bs n = s.block addr bs n)
    (hrest : ∀ a, (a < addr ∨ addr + len ≤ a) → t.byte a = s.byte a) (a : Nat) : t.byte a = s.byte a := by
  by_cases ha : a < addr ∨ addr + len ≤ a
  · exact hrest a ha
  · have hlt : a - addr < bs * m := by rw [Nat.mul_comm, ← hlen]; omega
    have hq : (a - addr) % bs < bs := Nat.mod_lt _ (Nat.pos_of_mul_pos_right (Nat.zero_lt_of_lt hlt))
    have hplace : addr + (a - addr) / bs * bs + (a - addr) % bs = a := by
      have := Nat.div_add_mod' (a - addr) bs
      omega
    have hbyte := congrArg (·.getD ((a - addr) % bs) 0) (hblock _ (Nat.div_lt_of_lt_mul hlt))
    simp only [State.load_getD _ hq, hplace] at hbyte
    exact hbyte

theorem xorBytes_xorBytes_cancel {a b : List Byte} (h : a.length = b.length) : xorBytes (xorBytes a b) b = a := by
  refine List.ext_getElem (by simp [xorBytes, h]) fun i h1 h2 => ?_
  simp [xorBytes]

theorem State.length_block (addr bs n : Nat) : (s.block addr bs n).length = bs := Memory.length_readBytes _ _ _

/-! #### CBC encryption -/

/-- `CBC_ENC` with a sufficient counter: the output blocks are the chain blocks after the IV (R189). -/
theorem execCbcEnc_result (h : ModeReady (.cbcEnc k) k s) :
    ∃ t, execCbcEnc k s = .next t ∧
      t = s.done k ((s.slot k).after (s.buf0.len / (s.slot k).bs) (s.cbcChain k (s.buf0.len / (s.slot k).bs))) t.mem
        (s.buf0.len / (s.slot k).bs) ∧
      (∀ n, n < s.buf0.len / (s.slot k).bs → t.block s.buf1.addr (s.slot k).bs n = s.cbcChain k (n + 1)) ∧
      ∀ a, (a < s.buf1.addr ∨ s.buf1.addr + s.buf0.len ≤ a) → t.byte a = s.byte a := by
  have hw := WholeBlocks.of_ready (.inr rfl) h
  obtain ⟨⟨hf, hp, hshape, -⟩, hv, -⟩ := h
  have hfirst := AfterBlocks.first s k (fun n => (s.slot k).after n (s.cbcChain k n)) fun n => s.cbcChain k (n + 1)
  have hload : s.setSlot k ((s.slot k).after 0 (s.cbcChain k 0)) = s.loadIv k (s.load s.buf2.addr (s.slot k).bs) := by
    rw [State.loadIv, Slot.loadIv_eq_after (by simp [State.load])]
    simp [State.cbcChain, State.block]
  rw [hload] at hfirst
  obtain ⟨j, hloop, hj⟩ := blocksLoop_ok (body := cbcEncBody k s.buf0.addr s.buf1.addr (s.slot k).bs)
    (I := AfterBlocks s k _ _)
    (fun i j hi hj => ⟨_, cbcEncBody_ok hw.place hshape (hi.trans_le hw.counter) hi hj, hj.next (State.length_cbcChain hshape _)⟩)
    _ 0 _ (Nat.zero_add _) hfirst
  have hexec := (cbcCommand_runsAs cbcEncBody).passes hf hv
  rw [hloop, hj.finish (by exact hp)] at hexec
  exact ⟨_, hexec, rfl, hj.block, fun a ha => hj.byte a (hw.len ▸ ha)⟩

/-- What `CBC_ENC` writes is apart from its IV, one block at `P4` (R188, 20_memory.md R69). -/
theorem iv_apart_of_cbcVerdict (hshape : (s.slot k).Shape) (hv : modeVerdict (.cbcEnc k) k s = .go) (h0 : s.buf0.len ≠ 0) :
    s.buf1.addr + s.buf0.len ≤ s.buf2.addr ∨ s.buf2.addr + (s.slot k).bs ≤ s.buf1.addr := by
  obtain ⟨-, hiv, hplace⟩ := operands_of_modeVerdict hv
  have hlen : s.buf2.len = (s.slot k).bs := by
    simp only [badIv, Bool.or_eq_false_iff, bne_eq_false_iff_eq] at hiv
    exact hiv.2
  have hapart : s.buf2.Apart s.buf1.addr s.buf0.len := of_decide_eq_true (Bool.and_eq_true_iff.mp hplace).2
  have hbs := hshape.bs_pos
  rw [Buffer.Apart, hlen] at hapart
  omega

/-! #### There and back -/

section
variable (hk : (s.slot k).kind = .b8 ∨ (s.TablesOk ∧ s.tbl.valid = true ∧ LastLinOk s.par.profile))
include hk

/-- A slot decrypts what it has encrypted, kind `B8` whatever the tables are. -/
theorem State.decrypts_encrypts (hshape : (s.slot k).Shape) {b : List Byte} (hb : b.length = (s.slot k).bs) :
    s.decrypts k (s.encrypts k b) = b := by
  refine (blockInverse s.par s.tbl (s.slot k) b (hk.imp_right ?_) hshape hb).1
  rintro ⟨⟨⟨h8, -⟩, ht⟩, hvalid, hlast⟩
  exact ⟨h8, hlast, ht hvalid⟩

variable (hin : s.buf1.addr = s.buf0.addr) (hc : 2 * (s.buf0.len / (s.slot k).bs) ≤ (s.slot k).resourceCounter.toNat)
include hin hc

/-- `ECB_DEC` restores what `ECB_ENC` has encrypted in place (R187). -/
theorem ecb_inPlace (h : ModeReady (.ecbEnc k) k s) :
    ∃ t u, execEcbEnc k s = .next t ∧ execEcbDec k t = .next u ∧ u.res = 0 ∧ ∀ a, u.byte a = s.byte a := by
  have hw := WholeBlocks.of_ready (.inl rfl) h
  obtain ⟨t, henc, ht, hcipher, htrest⟩ := ecbCommand_result .encrypt h
  obtain ⟨hops, hready⟩ := h.again rfl ht rfl (Nat.two_mul _ ▸ hc)
  obtain ⟨u, hdec, hu, hplain, hurest⟩ := ecbCommand_result .decrypt hready
  rw [hops.buf0, hops.buf1, hops.bs] at hplain
  rw [hops.buf0, hops.buf1] at hurest
  rw [hin] at hcipher htrest hplain hurest
  obtain ⟨⟨-, -, hshape, -⟩, -, -⟩ := h
  have hblock : ∀ n, n < s.buf0.len / (s.slot k).bs →
      u.block s.buf0.addr (s.slot k).bs n = s.block s.buf0.addr (s.slot k).bs n := by
    intro n hn
    calc u.block s.buf0.addr (s.slot k).bs n
        = t.decrypts k (t.block s.buf0.addr (s.slot k).bs n) := hplain n hn
      _ = s.decrypts k (s.encrypts k (s.block s.buf0.addr (s.slot k).bs n)) := by rw [hops.decrypts, hcipher n hn]; rfl
      _ = s.block s.buf0.addr (s.slot k).bs n := State.decrypts_encrypts hk hshape (State.length_block _ _ _)
  exact ⟨t, u, henc, hdec, by rw [hu]; rfl,
    State.byte_eq_of_blocks hw.len hblock fun a ha => (hurest a ha).trans (htrest a ha)⟩

/-- `CBC_DEC` under the same IV restores what `CBC_ENC` has encrypted in place (R190). -/
theorem cbc_inPlace (h : ModeReady (.cbcEnc k) k s) :
    ∃ t u, execCbcEnc k s = .next t ∧ execCbcDec k t = .next u ∧ u.res = 0 ∧ ∀ a, u.byte a = s.byte a := by
  have hw := WholeBlocks.of_ready (.inr rfl) h
  obtain ⟨t, henc, ht, hcipher, htrest⟩ := execCbcEnc_result h
  obtain ⟨hops, hready⟩ := h.again rfl ht rfl (Nat.two_mul _ ▸ hc)
  obtain ⟨u, hdec, hu, hplain, hurest⟩ := cbcDecResult t k hready
  rw [hops.buf0, hops.buf1, hops.buf2, hops.bs] at hplain
  rw [hops.buf0, hops.buf1] at hurest
  rw [hin] at hcipher htrest hplain hurest
  obtain ⟨⟨-, -, hshape, -⟩, hv, -⟩ := h
  have hchain : ∀ n, n < s.buf0.len / (s.slot k).bs →
      (if n = 0 then t.block s.buf2.addr (s.slot k).bs 0 else t.block s.buf0.addr (s.slot k).bs (n - 1)) = s.cbcChain k n := by
    intro n hn
    cases n with
    | zero =>
      have hapart := hin ▸ iv_apart_of_cbcVerdict hshape hv (mt hw.len_eq_zero.mp hn.ne')
      exact State.load_congr fun a h1 h2 => htrest a (by omega)
    | succ n => exact hcipher n (by omega)
  have hblock : ∀ n, n < s.buf0.len / (s.slot k).bs →
      u.block s.buf0.addr (s.slot k).bs n = s.block s.buf0.addr (s.slot k).bs n := by
    intro n hn
    have hlen : (s.block s.buf0.addr (s.slot k).bs n).length = (s.cbcChain k n).length := by
      rw [State.length_block, State.length_cbcChain hshape]
    have hxor : (xorBytes (s.block s.buf0.addr (s.slot k).bs n) (s.cbcChain k n)).length = (s.slot k).bs := by
      rw [xorBytes, List.length_zipWith, hlen, Nat.min_self, State.length_cbcChain hshape]
    calc u.block s.buf0.addr (s.slot k).bs n
        = xorBytes (s.decrypts k (s.cbcChain k (n + 1))) (s.cbcChain k n) := by
          rw [hplain n hn, hops.decrypts, hcipher n hn, hchain n hn]
      _ = xorBytes (xorBytes (s.block s.buf0.addr (s.slot k).bs n) (s.cbcChain k n)) (s.cbcChain k n) := by
          rw [State.cbcChain, State.decrypts_encrypts hk hshape hxor]
      _ = s.block s.buf0.addr (s.slot k).bs n := xorBytes_xorBytes_cancel hlen
  exact ⟨t, u, henc, hdec, by rw [hu]; rfl,
    State.byte_eq_of_blocks hw.len hblock fun a ha => (hurest a ha).trans (htrest a ha)⟩

end
end

/-- Settles O43: in place, block by block, `ECB_DEC` undoes `ECB_ENC` and `CBC_DEC` undoes `CBC_ENC`. -/
theorem encryptDecryptInPlace : Obligations.EncryptDecryptInPlace := fun _ _ hk hin hc =>
  ⟨ecb_inPlace hk hin hc, cbc_inPlace hk hin hc⟩

end Sys2Proof.Machine
end

section
/-! ### The counter increment and CMAC's doubling as arithmetic on big-endian numbers (43_modes.md R193, R200) -/

namespace Sys2Proof

/-! #### Big-endian numbers (00_scope.md R10) -/

theorem be_concat (b : List Byte) (x : Byte) : be (b ++ [x]) = be b * 256 + x.toNat := by simp [be]

theorem be_cons (x : Byte) (b : List Byte) : be (x :: b) = x.toNat * 256 ^ b.length + be b := by
  induction b using List.reverseRecOn with
  | nil => simp [be]
  | append_singleton b y ih =>
    rw [← List.cons_append, be_concat, be_concat, ih, List.length_append, List.length_singleton]
    ring

theorem be_lt (b : List Byte) : be b < 256 ^ b.length := by
  induction b using List.reverseRecOn with
  | nil => simp [be]
  | append_singleton b x ih =>
    have hx := x.isLt
    rw [be_concat, List.length_append, List.length_singleton, pow_succ]
    omega

namespace Machine

/-! #### The counter increment -/

/-- The increment of a number held least significant byte first. -/
theorem be_incLittle_reverse (b : List Byte) : be (incLittle b).reverse = (be b.reverse + 1) % 256 ^ b.length := by
  induction b with
  | nil => rfl
  | cons x xs ih =>
    have hlt := be_lt xs.reverse
    rw [List.length_reverse] at hlt
    rw [incLittle, List.reverse_cons, be_concat, List.length_cons, pow_succ]
    split
    · next hcarry =>
      have hx : x.toNat = 255 := by bv_omega
      have hzero : (0 : Byte).toNat = 0 := rfl
      rw [List.reverse_cons, be_concat, ih, ← Nat.mul_mod_mul_right, hx, hzero, Nat.add_zero, Nat.succ_mul, Nat.add_assoc]
    · next hcarry =>
      have hx : (x + 1).toNat = x.toNat + 1 := by bv_omega
      have hbyte := (x + 1).isLt
      rw [List.reverse_cons, be_concat, hx, ← Nat.add_assoc, Nat.mod_eq_of_lt]
      omega

theorem incLittle_replicate (n : Nat) : incLittle (List.replicate n 0xFF) = List.replicate n 0 := by
  induction n with
  | zero => rfl
  | succ n ih =>
    rw [List.replicate_succ, incLittle, if_pos (by decide), ih]
    rfl

/-- Settles O45: the carry runs from the last byte to the first and is lost there. -/
theorem counterIncrement : Obligations.CounterIncrement := by
  refine ⟨fun b => ⟨length_incBlock b, ?_⟩, fun n => ?_, by decide⟩
  · rw [incBlock, be_incLittle_reverse, List.reverse_reverse, List.length_reverse, pow_mul]
    rfl
  · rw [incBlock, List.reverse_replicate, incLittle_replicate, List.reverse_replicate]

/-! #### CMAC's doubling -/

theorem length_shiftBlock (b : List Byte) : (shiftBlock b).length = b.length := by
  induction b with
  | nil => rfl
  | cons x xs ih => rw [shiftBlock, List.length_cons, List.length_cons, ih]

/-- The bit that a block shifts out. -/
def carryOf (b : List Byte) : Nat := (b.headD 0 >>> 7).toNat

theorem carryOf_eq (b : List Byte) : carryOf b = if (b.headD 0).getLsbD 7 then 1 else 0 := by
  rw [carryOf, BitVec.toNat_ushiftRight, Nat.shiftRight_eq_div_pow]
  have h := (b.headD 0).isLt
  rw [BitVec.getLsbD, Nat.testBit_eq_decide_div_mod_eq]
  simp only [decide_eq_true_eq]
  split <;> omega

/-- One byte of a shift: its top bit goes out and the carry of the bytes behind it comes in. -/
theorem shift_byte (x : Byte) (b : List Byte) :
    2 * x.toNat + carryOf b = carryOf (x :: b) * 256 + ((x <<< 1) ||| (b.headD 0 >>> 7)).toNat := by
  have hx := x.isLt
  have hb : carryOf b < 2 ^ 1 := by rw [carryOf_eq]; split <;> decide
  have hor : ((x <<< 1) ||| (b.headD 0 >>> 7)).toNat = 2 ^ 1 * (x.toNat % 128) + carryOf b := by
    rw [Nat.two_pow_add_eq_or_of_lt hb, BitVec.toNat_or, BitVec.toNat_shiftLeft, Nat.shiftLeft_eq, carryOf]
    congr 1
    omega
  have hout : carryOf (x :: b) = x.toNat / 128 := by
    rw [carryOf, BitVec.toNat_ushiftRight, Nat.shiftRight_eq_div_pow]
    rfl
  rw [hor, hout]
  omega

/-- A shift by one bit doubles the number; what leaves the block is its carry. -/
theorem two_mul_be (b : List Byte) : 2 * be b = carryOf b * 256 ^ b.length + be (shiftBlock b) := by
  induction b with
  | nil => rfl
  | cons x xs ih =>
    calc 2 * be (x :: xs)
        = (2 * x.toNat + carryOf xs) * 256 ^ xs.length + be (shiftBlock xs) := by rw [be_cons, mul_add, ih]; ring
      _ = carryOf (x :: xs) * 256 ^ (x :: xs).length + be (shiftBlock (x :: xs)) := by
        rw [shift_byte, shiftBlock, be_cons, length_shiftBlock, List.length_cons]
        ring

theorem xorLast_concat (b : List Byte) (x r : Byte) : xorLast (b ++ [x]) r = b ++ [x ^^^ r] := by simp [xorLast]

theorem length_xorLast (b : List Byte) (r : Byte) : (xorLast b r).length = b.length := by
  obtain rfl | ⟨b, x, rfl⟩ := b.eq_nil_or_concat'
  · rfl
  · rw [xorLast_concat, List.length_append, List.length_append]
    rfl

theorem be_xorLast {b : List Byte} (hb : b ≠ []) (r : Byte) : be (xorLast b r) = be b ^^^ r.toNat := by
  obtain ⟨b, x, rfl⟩ := b.eq_nil_or_concat'.resolve_left hb
  have hdiv : (be b * 256 + x.toNat) / 2 ^ 8 = be b := by have := x.isLt; omega
  have hmod : (be b * 256 + x.toNat) % 2 ^ 8 = x.toNat := by have := x.isLt; omega
  rw [xorLast_concat, be_concat, be_concat, ← Nat.div_add_mod' (be b * 256 + x.toNat ^^^ r.toNat) (2 ^ 8),
    Nat.xor_div_two_pow, Nat.xor_mod_two_pow, hdiv, hmod, Nat.div_eq_of_lt r.isLt, Nat.mod_eq_of_lt r.isLt, Nat.xor_zero,
    BitVec.toNat_xor]
  rfl

theorem length_doubleBlock (bs : Nat) (b : List Byte) : (doubleBlock bs b).length = b.length := by
  rw [doubleBlock]
  split
  · rw [length_xorLast, length_shiftBlock]
  · exact length_shiftBlock b

/-- Doubling a block that is not empty, with the constant folded in for the bit shifted out. -/
theorem be_doubleBlock (bs : Nat) {b : List Byte} (hb : b ≠ []) :
    be (doubleBlock bs b) =
      if 2 * be b < 256 ^ b.length then 2 * be b else (2 * be b - 256 ^ b.length) ^^^ (reductionByte bs).toNat := by
  have hlt := be_lt (shiftBlock b)
  have hdouble := two_mul_be b
  rw [length_shiftBlock] at hlt
  rw [carryOf_eq] at hdouble
  rw [doubleBlock]
  split
  · next htop =>
    have hshift : shiftBlock b ≠ [] := by rwa [← List.length_pos_iff, length_shiftBlock, List.length_pos_iff]
    rw [if_pos htop, one_mul] at hdouble
    rw [be_xorLast hshift, if_neg (by omega), hdouble, Nat.add_sub_cancel_left]
  · next htop =>
    rw [if_neg htop, zero_mul, zero_add] at hdouble
    rw [hdouble, if_pos hlt]

/-- Settles O46: the constant of the block size is folded in when the shift carries. -/
theorem cmacDoubling : Obligations.CmacDoubling := by
  refine ⟨fun bs b hbs hlen => ⟨(length_doubleBlock bs b).trans hlen, ?_⟩, by decide, by decide⟩
  have hb : b ≠ [] := List.ne_nil_of_length_pos (by omega)
  rw [be_doubleBlock bs hb, hlen]
  obtain rfl | rfl := hbs
  · exact if_congr (by omega) rfl rfl
  · exact if_congr (by omega) rfl rfl

end Machine
end Sys2Proof
end

section
/-! ### CBC encryption and CTR with a counter that suffices, CTR twice, and CTR_ACPKM as CTR (43_modes.md R188 to R196) -/

namespace Sys2Proof.Machine

/-! #### CBC encryption -/

/-- Settles O36: the chain block after each input block is its output block. -/
theorem cbcEncResult : Obligations.CbcEncResult := by
  intro s k h
  have hw := WholeBlocks.of_ready (.inr rfl) h
  obtain ⟨t, hexec, ht, hblock, hrest⟩ := execCbcEnc_result h
  have hchain : ∀ n, n ≤ s.buf0.len / (s.slot k).bs → s.cbcChain k n =
      if n = 0 then s.block s.buf2.addr (s.slot k).bs 0 else t.block s.buf1.addr (s.slot k).bs (n - 1) := by
    intro n hn
    cases n with
    | zero => rfl
    | succ n => exact (hblock n hn).symm
  refine ⟨t, hexec, ?_, fun n hn => ?_, hrest⟩
  · simp only [hw.len_eq_zero]
    rw [← hchain _ le_rfl]
    exact ht
  · rw [hblock n hn, ← hchain n hn.le, State.cbcChain]

/-! #### CTR -/

/-- `CTR` with a sufficient counter: every byte of the input is combined with its byte of the key stream (R194). -/
theorem execCtr_result {s : State} {k : SlotId} (h : ModeReady (.ctr k) k s) :
    ∃ t, execCtr k s = .next t ∧
      t = s.done k
        ((s.slot k).after (ceilDiv s.buf0.len (s.slot k).bs)
          (s.counterBlock (s.slot k).bs (ceilDiv s.buf0.len (s.slot k).bs)))
        t.mem (ceilDiv s.buf0.len (s.slot k).bs) ∧
      (∀ o, o < s.buf0.len → t.byte (s.buf1.addr + o) = s.ctrByte k o) ∧
      ∀ a, (a < s.buf1.addr ∨ s.buf1.addr + s.buf0.len ≤ a) → t.byte a = s.byte a := by
  obtain ⟨⟨hf, hp, hshape, -⟩, hv, hc⟩ := h
  have hs := Streaming.of_modeVerdict (.inl rfl) hshape hv
  have hfirst := AfterBytes.first s k ((s.slot k).after 0 (s.counterBlock (s.slot k).bs 0)) (s.ctrByte k)
  obtain ⟨j, hloop, hj⟩ := blocksLoop_ok (body := ctrBody k s.buf0.addr s.buf1.addr s.buf0.len (s.slot k).bs)
    (I := fun i => AfterBytes s k ((s.slot k).after i (s.counterBlock (s.slot k).bs i)) (s.ctrByte k) i
      (min (i * (s.slot k).bs) s.buf0.len))
    (fun i j hi hj => ctrBody_ok hs hshape rfl hi (hi.trans_le hc)
      (fun q hq => by rw [State.ctrByte, (block_byte hq).1, (block_byte hq).2]; rfl) hj)
    _ 0 _ (Nat.zero_add _) (by simpa using hfirst)
  rw [min_eq_right (le_ceilDiv_mul hshape.bs_pos)] at hj
  have hexec := execCtr_runsAs.passes hf hv
  rw [State.loadIv_counterBlock hs.iv, hloop, hj.succeeds (by exact hp)] at hexec
  exact ⟨_, hexec, rfl, hj.written, hj.rest⟩

/-- Settles O38: after `i` blocks the bytes of those blocks are written, and the next counter block stands in `iv_buffer`. -/
theorem ctrResult : Obligations.CtrResult := fun _ _ h => execCtr_result h

/-! #### CTR twice in place -/

section
variable {s t : State} {k : SlotId}

/-- What `CTR` writes is apart from its IV, which is not empty (R191, 20_memory.md R69). -/
theorem iv_apart_of_ctrVerdict (hv : modeVerdict (.ctr k) k s = .go) (h0 : s.buf0.len ≠ 0) :
    s.buf1.addr + s.buf0.len ≤ s.buf2.addr ∨ s.buf2.addr + s.buf2.len ≤ s.buf1.addr := by
  obtain ⟨-, hiv, hplace⟩ := operands_of_modeVerdict hv
  simp only [badIv, Bool.or_eq_false_iff, beq_eq_false_iff_ne] at hiv
  obtain ⟨⟨-, hlen⟩, -⟩ := hiv
  have hapart : s.buf2.Apart s.buf1.addr s.buf0.len := of_decide_eq_true (Bool.and_eq_true_iff.mp hplace).2
  exact (hapart.resolve_left h0).resolve_left hlen

theorem State.SameOperands.encrypts (h : s.SameOperands k t) (b : List Byte) : t.encrypts k b = s.encrypts k b := by
  rw [State.encrypts, h.par, h.tbl]
  exact h.slot_field (fun sl => encryptBlock s.par s.tbl sl b) fun _ _ _ _ => rfl

/-- The counter blocks are the same where the operands and the bytes of the IV are. -/
theorem State.SameOperands.counterBlock (h : s.SameOperands k t)
    (hiv : ∀ a, s.buf2.addr ≤ a → a < s.buf2.addr + s.buf2.len → t.byte a = s.byte a) (bs n : Nat) :
    t.counterBlock bs n = s.counterBlock bs n := by
  rw [State.counterBlock, State.counterBlock, h.buf2, State.load_congr hiv]

end

/-- Settles O44: the second command combines each byte with the key-stream byte that the first has combined it with. -/
theorem ctrTwiceInPlace : Obligations.CtrTwiceInPlace := by
  intro s k h hin hc
  obtain ⟨t, hexec, ht, hbyte, hrest⟩ := execCtr_result h
  obtain ⟨hops, hready⟩ := h.again rfl ht rfl (Nat.two_mul _ ▸ hc)
  obtain ⟨u, hexec', hu, hbyte', hrest'⟩ := execCtr_result hready
  rw [hops.buf0, hops.buf1] at hbyte' hrest'
  rw [hin] at hbyte hrest hbyte' hrest'
  obtain ⟨-, hv, -⟩ := h
  have hback : ∀ o, o < s.buf0.len → u.byte (s.buf0.addr + o) = s.byte (s.buf0.addr + o) := by
    intro o ho
    have hapart := hin ▸ iv_apart_of_ctrVerdict hv (by omega)
    have hcounter := hops.counterBlock fun a h1 h2 => hrest a (by omega)
    rw [hbyte' o ho, State.ctrByte, hops.buf0, hops.bs, hops.encrypts, hcounter, hbyte o ho, State.ctrByte,
      BitVec.xor_assoc, BitVec.xor_self, BitVec.xor_zero]
  refine ⟨t, u, hexec, hexec', by rw [hu]; rfl, fun a => ?_⟩
  by_cases ha : a < s.buf0.addr ∨ s.buf0.addr + s.buf0.len ≤ a
  · exact (hrest' a ha).trans (hrest a ha)
  · obtain ⟨o, rfl⟩ := Nat.exists_eq_add_of_le (show s.buf0.addr ≤ a by omega)
    exact hback o (by omega)

/-! #### CTR_ACPKM without a second section -/

/-- A check that passes can be left out. -/
theorem command_skip {s : State} {o : Option SlotId} {as bs cs : List Check} {e : State} (h : firstStop bs = none) :
    command s o (as ++ bs ++ cs) e = command s o (as ++ cs) e := by
  rw [command, command, firstStop_append, firstStop_append, firstStop_append, h, Option.or_none]

/-- Bodies that agree on the blocks of a loop make the same loop. -/
theorem blocksLoop_congr {f g : Nat → Job → Except Job Job} {m : Nat} (h : ∀ i j, i < m → f i j = g i j) :
    ∀ (n i : Nat) (j : Job), i + n = m → blocksLoop f n i j = blocksLoop g n i j := by
  intro n
  induction n with
  | zero => exact fun _ _ _ => rfl
  | succ n ih =>
    intro i j hm
    simp only [blocksLoop]
    rw [h i j (by omega)]
    cases g i j with
    | error j' => rfl
    | ok j' => exact ih (i + 1) j' (by omega)

/-- In the first section a block of `CTR_ACPKM` is one of `CTR`. -/
theorem acpkmBody_first_section {k : SlotId} {section_ src dst len bs i : Nat} (h : i < section_) (j : Job) :
    acpkmBody section_ k src dst len bs i j = ctrBody k src dst len bs i j := by
  rw [acpkmBody, Nat.mod_eq_of_lt h, if_neg (by omega)]

theorem acpkmBlocks_one_section {nblk section_ : Nat} (derivation : Nat) (h : nblk ≤ section_) :
    acpkmBlocks nblk section_ derivation = nblk := by
  rw [acpkmBlocks]
  split
  · next h0 => exact h0.symm
  · next h0 => rw [Nat.div_eq_of_lt (by omega), Nat.mul_zero, Nat.add_zero]

/-- Settles O42: with one section the section check, `M` and every block are those of `CTR`. -/
theorem acpkmLongSectionIsCtr : Obligations.AcpkmLongSectionIsCtr := by
  intro s k hpos hle
  have hloop := fun j => blocksLoop_congr
    (f := acpkmBody s.extra k s.buf0.addr s.buf1.addr s.buf0.len (s.slot k).bs)
    (fun i j hi => acpkmBody_first_section (hi.trans_le hle) j) _ 0 j (Nat.zero_add _)
  have hcheck : firstStop [⟨decide (s.extra = 0), .error .zeroLength 0⟩] = none := by
    rw [firstStop_cons, decide_eq_false hpos.ne']
    rfl
  show execCtrAcpkm k s = execCtr k s
  rw [execCtrAcpkm, execCtr, acpkmBlocks_one_section _ hle, ctrCommand, ctrCommand]
  simp only [hloop, List.append_assoc]
  rw [← List.append_assoc, command_skip hcheck]
  rfl

end Sys2Proof.Machine
end

section
/-! ### CMAC with a counter that suffices (43_modes.md R199 to R201) -/

namespace Sys2Proof.Machine

/-! #### A message in memory -/

theorem State.load_take (s : State) (addr : Nat) {n m : Nat} (h : m ≤ n) : (s.load addr n).take m = s.load addr m := by
  simp [State.load, Memory.readBytes, ← List.map_take, List.take_range, h]

theorem State.load_drop (s : State) (addr n m : Nat) : (s.load addr n).drop m = s.load (addr + m) (n - m) := by
  refine List.ext_getElem (by simp [State.load]) fun i h1 h2 => ?_
  simp [State.load, Memory.readBytes, Nat.add_assoc]

/-- Past its checks a tag is no longer than a block (R180 (f)). -/
theorem tag_le_of_cmacVerdict {s : State} {k : SlotId} (hv : modeVerdict (.cmac k) k s = .go) : s.extra ≤ (s.slot k).bs := by
  unfold modeVerdict at hv
  split_ifs at hv with _ _ _ _ _ _ _ htag
  all_goals simpa [badTag] using htag

/-! #### The chain -/

section
variable {k : SlotId} {j : Job} {src len dst tagLen bs : Nat}

/-- The last block goes into the tag whole or padded, with its subkey (R199). -/
theorem cmacFold_zero (e : List Byte → List Byte) (k1 k2 chain x : List Byte) :
    cmacFold e bs k1 k2 0 chain x = e (xorBytes chain (cmacLast bs k1 k2 x)) := by
  simp only [cmacFold, cmacLast, padBlock, List.append_assoc, List.cons_append, List.nil_append]

/-- An encryption while units are left. -/
theorem encryptCall_spend {n : Nat} (b : List Byte) (h : n < (j.st.slot k).resourceCounter.toNat) :
    blockCall .encrypt k b (j.spend k n) = .ok (j.spend k (n + 1), j.st.encrypts k b) := blockCall_spend .encrypt b h

@[simp] theorem Job.load_spend (n addr w : Nat) : (j.spend k n).st.load addr w = j.st.load addr w := rfl

theorem Job.store_spend (n addr w : Nat) (v : List Byte) :
    (j.spend k n).st.store addr w v = (j.st.store addr w v).setSlot k ((j.st.slot k).spent n) := rfl

/-- The chain over `m` blocks of a message of `len` bytes, on a counter that pays for them: the last block remains of the fold. -/
theorem cmacChain_fold (k1 k2 : List Byte) (m : Nat) {n i : Nat} {chain : List Byte}
    (hc : n + m ≤ (j.st.slot k).resourceCounter.toNat) (hlen : (i + m) * bs ≤ len) :
    ∃ chain', cmacChain k src bs m i chain (j.spend k n) = .ok (j.spend k (n + m), chain') ∧
      cmacFold (j.st.encrypts k) bs k1 k2 m chain (j.st.load (src + i * bs) (len - i * bs)) =
        j.st.encrypts k (xorBytes chain'
          (cmacLast bs k1 k2 (j.st.load (src + (i + m) * bs) (len - (i + m) * bs)))) := by
  induction m generalizing n i chain with
  | zero => exact ⟨chain, rfl, cmacFold_zero _ _ _ _ _⟩
  | succ m ih =>
    have hnext : ∀ a, a + (m + 1) = a + 1 + m := fun a => by omega
    rw [hnext] at hc hlen ⊢
    obtain ⟨chain', hchain, hfold⟩ := ih
      (chain := j.st.encrypts k (xorBytes chain (j.st.load (src + i * bs) bs))) hc hlen
    refine ⟨chain', ?_, ?_⟩
    · simp only [cmacChain]
      rw [encryptCall_spend _ (by omega)]
      exact hchain
    · have hfits : bs ≤ len - i * bs := by
        have hle : (i + 1) * bs ≤ (i + 1 + m) * bs := Nat.mul_le_mul_right _ (Nat.le_add_right _ _)
        rw [Nat.succ_mul] at hle
        omega
      rw [cmacFold, State.load_take _ _ hfits, State.load_drop, Nat.add_assoc, Nat.sub_sub, ← Nat.succ_mul, hnext]
      exact hfold

/-- The blocks of a message before its last one are whole. -/
theorem whole_blocks_le {m : Nat} (hbs : 0 < bs) (hm : max 1 (ceilDiv len bs) = m + 1) : m * bs ≤ len := by
  cases m with
  | zero => omega
  | succ m => exact (mul_lt_of_lt_ceilDiv hbs (by omega)).le

/-! #### The job and the command -/

/-- The block work of CMAC on a counter that pays for it: the tag of the message is stored (R201). -/
theorem cmacJob_ok (hbs : 0 < bs) (h : cmacBlocks len bs ≤ (j.st.slot k).resourceCounter.toNat) :
    cmacJob k src len dst tagLen bs j =
      .ok ⟨(j.spend k (cmacBlocks len bs)).st.store dst tagLen (cmacTag (j.st.encrypts k) bs (j.st.load src len)),
        j.done + cmacBlocks len bs⟩ := by
  obtain ⟨m, hm⟩ : ∃ m, max 1 (ceilDiv len bs) = m + 1 := Nat.exists_eq_add_of_le' (le_max_left _ _)
  rw [cmacBlocks, hm] at h ⊢
  have hfirst := encryptCall_spend (k := k) (j := j) (n := 0) (List.replicate bs 0) (by omega)
  rw [Job.spend_zero] at hfirst
  obtain ⟨chain, hchain, hfold⟩ := cmacChain_fold (k := k) (j := j) (src := src)
    (doubleBlock bs (j.st.encrypts k (List.replicate bs 0)))
    (doubleBlock bs (doubleBlock bs (j.st.encrypts k (List.replicate bs 0)))) m (n := 1) (i := 0)
    (chain := List.replicate bs 0) (by omega) ((Nat.zero_add m).symm ▸ whole_blocks_le hbs hm)
  rw [Nat.zero_mul, Nat.add_zero, Nat.sub_zero, Nat.zero_add] at hfold
  simp only [cmacJob, hm, Nat.add_sub_cancel, hfirst]
  rw [hchain]
  simp only [Job.load_spend]
  have hlen : (j.st.load src len).length = len := Memory.length_readBytes _ _ _
  rw [encryptCall_spend _ (by omega), cmacTag, hlen, hm, Nat.add_sub_cancel, hfold]
  rfl

end

/-- A tag is a block. -/
theorem length_cmacTag {e : List Byte → List Byte} {bs : Nat} (he : ∀ b, (e b).length = bs) (msg : List Byte) :
    (cmacTag e bs msg).length = bs := by
  have hfold : ∀ (k1 k2 : List Byte) (n : Nat) (chain x : List Byte), (cmacFold e bs k1 k2 n chain x).length = bs := by
    intro k1 k2 n
    induction n with
    | zero => exact fun chain x => he _
    | succ n ih => exact fun chain x => ih _ _
  exact hfold _ _ _ _ _

/-- Settles O40: the calls leave memory as it is, and then the tag is stored. -/
theorem cmacResult : Obligations.CmacResult := by
  rintro s k ⟨⟨hf, hp, hshape, -⟩, hv, hc⟩
  have hlen : ((cmacTag (s.encrypts k) (s.slot k).bs (s.load s.buf0.addr s.buf0.len)).take s.extra).length = s.extra := by
    rw [List.length_take, length_cmacTag (e := s.encrypts k) fun b => blockOp_length (dir := .encrypt) hshape b]
    exact min_eq_left (tag_le_of_cmacVerdict hv)
  have hexec := execCmac_runsAs.passes hf hv
  rw [cmacJob_ok (j := ⟨s, 0⟩) hshape.bs_pos hc] at hexec
  simp only [finishJob, Nat.zero_add, Job.store_spend] at hexec
  rw [State.succeed_setSlot (by exact hp)] at hexec
  refine ⟨_, hexec, rfl, ?_, fun a ha => State.byte_store_outside (s := s) _ ha⟩
  have hread := State.load_store_same (s := s) (addr := s.buf1.addr) hlen
  rwa [State.store, List.take_take, Nat.min_self] at hread

end Sys2Proof.Machine
end

section
/-! ### The key expansions EXPAND_AES and EXPAND_GOST (44_profile_aes.md R217, 45_profile_gost.md R236) -/

namespace Sys2Proof.Machine

/-! #### The bytes of a word -/

section
variable {b : Nat} (hb : b < 4) (t u : Word4) (tbl : TableSet)

theorem rotWord_get : (rotWord t)[b] = t[(b + 1) % 4] := by
  interval_cases b <;> rfl

theorem subWord_get : (subWord tbl t)[b] = tbl.sub t[b] := by
  simp [subWord]

theorem addRcon_get (rc : Byte) : (addRcon t rc)[b] = t[b] ^^^ (if b = 0 then rc else 0) := by
  interval_cases b <;> simp [addRcon]

theorem xorWord_get : (xorWord t u)[b] = t[b] ^^^ u[b] := by
  simp [xorWord]

theorem keyWords_get (key : List Byte) {nk i : Nat} (hi : i < nk) :
    ((keyWords key nk).getD i Word4.zero)[b] = key.getD (4 * i + b) 0 := by
  simp [keyWords, hi]

end

/-! #### The recurrence of the AES key schedule -/

section
variable (prf : Profile) (tbl : TableSet)

/-- The round constant of R217 after `n` doublings. -/
def roundConstant (n : Nat) : Byte := (fun rc => gfMul prf.poly rc 0x02)^[n] 0x01

theorem roundConstant_succ (n : Nat) : roundConstant prf (n + 1) = gfMul prf.poly (roundConstant prf n) 0x02 :=
  Function.iterate_succ_apply' _ _ _

/-- The word before word `i`, as R217 transforms it before the sum. -/
def transformedWord (nk i : Nat) (rc : Byte) (t : Word4) : Word4 :=
  if i % nk = 0 then addRcon (subWord tbl (rotWord t)) rc
  else if 6 < nk ∧ i % nk = 4 then subWord tbl t
  else t

theorem transformedWord_get (nk i : Nat) (rc : Byte) (t : Word4) {b : Nat} (hb : b < 4) :
    (transformedWord tbl nk i rc t)[b] =
      if i % nk = 0 then tbl.sub t[(b + 1) % 4] ^^^ (if b = 0 then rc else 0)
      else if 6 < nk ∧ i % nk = 4 then tbl.sub t[b]
      else t[b] := by
  unfold transformedWord
  split
  · rw [addRcon_get hb, subWord_get hb, rotWord_get hb]
  · split
    · exact subWord_get hb t tbl
    · rfl

/-- Word `i` that R217 makes of the words before it. -/
def nextWord (nk i : Nat) (ws : List Word4) : Word4 :=
  xorWord (ws.getD (i - nk) Word4.zero)
    (transformedWord tbl nk i (roundConstant prf (i / nk - 1)) (ws.getD (i - 1) Word4.zero))

/-- Every word from word `nk` on is the one that R217 makes of the words before it. -/
def IsSchedule (nk : Nat) (ws : List Word4) : Prop :=
  ∀ i, nk ≤ i → i < ws.length → ws.getD i Word4.zero = nextWord prf tbl nk i ws

variable {prf tbl} {nk : Nat}

theorem nextWord_append {i : Nat} {ws : List Word4} (hnk : 0 < nk) (h : nk ≤ i) (hi : i ≤ ws.length) (us : List Word4) :
    nextWord prf tbl nk i (ws ++ us) = nextWord prf tbl nk i ws := by
  rw [nextWord, nextWord, List.getD_append _ _ _ _ (by omega), List.getD_append _ _ _ _ (by omega)]

theorem IsSchedule.append_nextWord {ws : List Word4} (hnk : 0 < nk) (h : IsSchedule prf tbl nk ws) :
    IsSchedule prf tbl nk (ws ++ [nextWord prf tbl nk ws.length ws]) := by
  intro i hle hi
  rw [List.length_append, List.length_singleton] at hi
  rw [nextWord_append hnk hle (by omega)]
  obtain hlt | rfl := Nat.lt_succ_iff_lt_or_eq.mp hi
  · rw [List.getD_append _ _ _ _ hlt]
    exact h i hle hlt
  · simp

theorem div_eq_pred_div_add_one {i : Nat} (hi : 0 < i) (h : i % nk = 0) : i / nk = (i - 1) / nk + 1 := by
  obtain ⟨i, rfl⟩ := Nat.exists_eq_add_of_le' hi
  exact Nat.succ_div_of_dvd (Nat.dvd_of_mod_eq_zero h)

theorem div_eq_pred_div {i : Nat} (hi : 0 < i) (h : i % nk ≠ 0) : i / nk = (i - 1) / nk := by
  obtain ⟨i, rfl⟩ := Nat.exists_eq_add_of_le' hi
  exact Nat.succ_div_of_not_dvd (mt Nat.mod_eq_zero_of_dvd h)

/-- The doublings before word `i + 1`: one more than before word `i` at a multiple of `nk`. -/
theorem roundConstant_step {i : Nat} (hi : 0 < i) :
    (if i % nk = 0 then gfMul prf.poly (roundConstant prf ((i - 1) / nk)) 0x02 else roundConstant prf ((i - 1) / nk)) =
      roundConstant prf (i / nk) := by
  split
  · next h => rw [div_eq_pred_div_add_one hi h, roundConstant_succ]
  · next h => rw [div_eq_pred_div hi h]

/-- One round of the loop appends the next word, and carries the round constant along. -/
theorem expandAesLoop_succ {ws : List Word4} (hws : 0 < ws.length) (n : Nat) :
    expandAesLoop prf tbl nk (n + 1) ws.length (roundConstant prf ((ws.length - 1) / nk)) ws =
      expandAesLoop prf tbl nk n (ws.length + 1) (roundConstant prf (ws.length / nk))
        (ws ++ [nextWord prf tbl nk ws.length ws]) := by
  rw [← roundConstant_step (nk := nk) hws, nextWord, transformedWord, expandAesLoop]
  simp only [decide_eq_true_eq, Bool.and_eq_true]
  split
  · next h => rw [div_eq_pred_div_add_one hws h, Nat.add_sub_cancel]
  · rfl

/-- The loop of R217 from a schedule on: `n` words more, the ones before them kept, and still a schedule. -/
theorem expandAesLoop_spec (hnk : 0 < nk) (n : Nat) {ws : List Word4} (hle : nk ≤ ws.length) (h : IsSchedule prf tbl nk ws) :
    ∃ us, us.length = n ∧ IsSchedule prf tbl nk (ws ++ us) ∧
      expandAesLoop prf tbl nk n ws.length (roundConstant prf ((ws.length - 1) / nk)) ws = ws ++ us := by
  induction n generalizing ws with
  | zero => exact ⟨[], rfl, by rwa [List.append_nil], (List.append_nil ws).symm⟩
  | succ n ih =>
    obtain ⟨us, hlen, hus, hloop⟩ := ih (by simp; omega) (h.append_nextWord hnk)
    rw [List.length_append, List.length_singleton, Nat.add_sub_cancel] at hloop
    rw [List.append_assoc] at hus hloop
    exact ⟨_, congrArg (· + 1) hlen, hus, (expandAesLoop_succ (by omega) n).trans hloop⟩

end

/-! #### EXPAND_AES -/

section
variable {prf : Profile} {tbl : TableSet} {key : List Byte} {nk nr : Nat}

/-- EXPAND_AES packs a schedule that begins with the key's words, four words to a round key. -/
theorem expandAes_spec (hnk : 0 < nk) (hle : nk ≤ 4 * (nr + 1)) (hkey : key.length = 4 * nk) :
    ∃ ws : List Word4, ws.length = 4 * (nr + 1) ∧ IsSchedule prf tbl nk ws ∧
      (∀ i < nk, ws.getD i Word4.zero = (keyWords key nk).getD i Word4.zero) ∧
      expandAes prf tbl key nr = (List.range (nr + 1)).map fun r =>
        Vector.ofFn fun b => (ws.getD (4 * r + b.val / 4) Word4.zero)[b.val % 4] := by
  have hlen : (keyWords key nk).length = nk := by simp [keyWords]
  obtain ⟨us, hus, hsched, hloop⟩ := expandAesLoop_spec (prf := prf) (tbl := tbl) hnk (4 * (nr + 1) - nk) hlen.ge
    fun i h1 h2 => absurd h2 (by omega)
  rw [hlen, Nat.div_eq_of_lt (by omega)] at hloop
  refine ⟨_, ?_, hsched, fun i hi => List.getD_append _ _ _ _ (by omega), ?_⟩
  · rw [List.length_append]
    omega
  · rw [← hloop, expandAes, hkey, Nat.mul_div_cancel_left nk (by decide)]
    rfl

/-- A byte of the packed words. -/
theorem expandedByte_packed (ws : List Word4) {i b : Nat} (hi : i < 4 * (nr + 1)) (hb : b < 4) :
    expandedByte ((List.range (nr + 1)).map fun r =>
      Vector.ofFn fun c : Fin 16 => (ws.getD (4 * r + c.val / 4) Word4.zero)[c.val % 4]) i b =
      (ws.getD i Word4.zero)[b] := by
  have hr : i / 4 < nr + 1 := by omega
  have hc : 4 * (i % 4) + b < 16 := by omega
  have hdiv : 4 * (i / 4) + (4 * (i % 4) + b) / 4 = i := by omega
  have hmod : (4 * (i % 4) + b) % 4 = b := by omega
  simp [expandedByte, hr, hc, hdiv, hmod]

/-- EXPAND_AES word by word (R217). -/
theorem expandedByte_expandAes (hnk : 0 < nk) (hle : nk ≤ 4 * (nr + 1)) (hkey : key.length = 4 * nk) {i b : Nat}
    (hi : i < 4 * (nr + 1)) (hb : b < 4) :
    expandedByte (expandAes prf tbl key nr) i b =
      if i < nk then key.getD (4 * i + b) 0
      else
        expandedByte (expandAes prf tbl key nr) (i - nk) b ^^^
          (if i % nk = 0 then
            tbl.sub (expandedByte (expandAes prf tbl key nr) (i - 1) ((b + 1) % 4)) ^^^
              (if b = 0 then roundConstant prf (i / nk - 1) else 0)
          else if 6 < nk ∧ i % nk = 4 then tbl.sub (expandedByte (expandAes prf tbl key nr) (i - 1) b)
          else expandedByte (expandAes prf tbl key nr) (i - 1) b) := by
  obtain ⟨ws, hlen, hsched, hfirst, hws⟩ := expandAes_spec (prf := prf) (tbl := tbl) hnk hle hkey
  rw [hws, expandedByte_packed ws hi hb]
  split
  · next h => rw [hfirst i h, keyWords_get hb key h]
  · next h =>
    have hword := hsched i (by omega) (by omega)
    rw [expandedByte_packed ws (by omega) hb, expandedByte_packed ws (by omega) hb,
      expandedByte_packed ws (by omega) (Nat.mod_lt _ (by decide)), hword, nextWord, xorWord_get hb,
      transformedWord_get tbl nk i _ _ hb]

end

/-! #### EXPAND_GOST -/

section
variable (prf : Profile) (tbl : TableSet)

theorem gostFeistelRun_eq_foldl (n j : Nat) (a : Vec16 × Vec16) :
    gostFeistelRun prf tbl n j a =
      (List.range n).foldl (fun a m => gostFeistel prf tbl (gostConstant prf tbl (j + m)) a) a := by
  induction n generalizing j a with
  | zero => rfl
  | succ n ih =>
    rw [gostFeistelRun, ih, List.range_succ_eq_map, List.foldl_cons, List.foldl_map]
    simp only [Nat.add_zero, Nat.add_assoc, Nat.add_comm 1]

@[simp] theorem length_gostPairs (n j : Nat) (a : Vec16 × Vec16) : (gostPairs prf tbl n j a).length = 2 * n := by
  induction n generalizing j a with
  | zero => rfl
  | succ n ih => simp only [gostPairs, List.length_cons, ih]; rfl

/-- The pairs of round keys as a list, from the pair `a` on. -/
def gostKeys (n j : Nat) (a : Vec16 × Vec16) : List Vec16 := a.1 :: a.2 :: gostPairs prf tbl n j a

theorem gostKeys_succ (n j : Nat) (a : Vec16 × Vec16) :
    gostKeys prf tbl (n + 1) j a = a.1 :: a.2 :: gostKeys prf tbl n (j + 8) (gostFeistelRun prf tbl 8 j a) := by
  rw [gostKeys, gostPairs, gostKeys]

/-- Each pair of round keys is a run of eight constants on the pair before it. -/
theorem gostKeys_next {n i : Nat} (hi : i < n) (j : Nat) (a : Vec16 × Vec16) :
    ((gostKeys prf tbl n j a).getD (2 * i + 2) Vec16.zero, (gostKeys prf tbl n j a).getD (2 * i + 3) Vec16.zero) =
      gostFeistelRun prf tbl 8 (8 * i + j)
        ((gostKeys prf tbl n j a).getD (2 * i) Vec16.zero, (gostKeys prf tbl n j a).getD (2 * i + 1) Vec16.zero) := by
  obtain ⟨n, rfl⟩ := Nat.exists_eq_add_of_lt hi
  induction i generalizing j a with
  | zero =>
    rw [gostKeys_succ, gostKeys]
    simp only [Nat.mul_zero, Nat.zero_add, List.getD_cons_succ, List.getD_cons_zero]
  | succ i ih =>
    have hn : i + 1 + n + 1 = i + n + 1 + 1 := by omega
    have hj : 8 * (i + 1) + j = 8 * i + (j + 8) := by omega
    rw [hn, hj, gostKeys_succ]
    simp only [Nat.mul_succ, List.getD_cons_succ]
    exact ih (j + 8) _ (by omega)

/-- A step `F(C_n, a)` of R236 on the bytes of its halves. -/
theorem gostFeistel_gostConstant (n : Nat) (a : Vec16 × Vec16) :
    gostFeistel prf tbl (gostConstant prf tbl n) a =
      (xorVec
        (matApply prf.poly tbl.mat (Vector.ofFn fun m : Fin 16 => tbl.sub (a.1[m] ^^^
          (matApply prf.poly tbl.mat (Vector.ofFn fun l : Fin 16 => if l.val = 15 then BitVec.ofNat 8 n else 0))[m])))
        a.2,
      a.1) := by
  simp only [gostFeistel, subBytes, xorVec_get, linear, gostConstant]

theorem expandGost_eq_gostKeys (key : List Byte) :
    expandGost prf tbl key = gostKeys prf tbl 4 1 (Vec16.ofList (key.take 16), Vec16.ofList (key.drop 16)) := by
  rw [expandGost, gostKeys]

theorem expandGost_halves (key : List Byte) (b : Fin 16) :
    ((expandGost prf tbl key).getD 0 Vec16.zero)[b] = key.getD b.val 0 ∧
      ((expandGost prf tbl key).getD 1 Vec16.zero)[b] = key.getD (16 + b.val) 0 := by
  simp [expandGost, Vec16.ofList, List.getD_eq_getElem?_getD, List.getElem?_drop]

end

/-- Settles O34: the AES loop keeps a schedule a schedule, and each GOST pair is a run on the pair before it. -/
theorem keyExpansions : Obligations.KeyExpansions := by
  refine ⟨fun prf tbl key nk nr hnk hnr hkey => ?_, ?_⟩
  · exact ⟨by simp [expandAes], fun i b hi hb => expandedByte_expandAes (by omega) (by omega) hkey hi hb⟩
  · rintro prf tbl key _ - rfl
    refine ⟨by simp [expandGost], expandGost_halves prf tbl key, fun i => ?_⟩
    rw [expandGost_eq_gostKeys, gostKeys_next prf tbl i.isLt, gostFeistelRun_eq_foldl]
    simp only [gostFeistel_gostConstant, Nat.add_right_comm _ 1]

end Sys2Proof.Machine
end
